-- ==== Sys2Proof/Word.lean ====
section
/-! DEFINITION. The widths of the hardware's values (00_scope.md R5, R8): every value is an unsigned number of its
width, and arithmetic on it is modulo two to that width. Beside them, the one type of a checked answer. -/

namespace Sys2Proof

/-- An 8-bit value: D, T, a memory cell, a port latch. -/
abbrev Byte := BitVec 8

/-- A 16-bit value: a general register, an address. -/
abbrev Word := BitVec 16

/-- A 4-bit value: P, X, a register index, a nibble of an opcode. -/
abbrev Nib := BitVec 4

/-- A value, or the named reason why there is none: what decoding, the event log and the configuration answer. -/
inductive Checked (ε α : Type) where
  | ok (a : α)
  | bad (e : ε)
deriving DecidableEq, Repr

end Sys2Proof
end

