-- ==== Sys2Proof/Syntax.lean ====
section
/-! DEFINITION. The abstract syntax: one constructor per row of spec/opcode_table.json (30_encoding.md R76), with the
operands the decoder has already pulled out of the instruction's bytes. -/

namespace Sys2Proof

/-- The seven I/O ports, numbered 1 to 7 (10_state.md R30, 46_io.md R210); port 0 does not exist. -/
inductive Port
  | p1 | p2 | p3 | p4 | p5 | p6 | p7
deriving DecidableEq, Repr

/-- The four external flag inputs EF1 to EF4 (10_state.md R29). -/
inductive EfLine
  | ef1 | ef2 | ef3 | ef4
deriving DecidableEq, Repr

/-- The 1802's instructions. `n` is a register index, `b` the byte after the opcode, `target` the two bytes after the
opcode with the first as the high byte (30_encoding.md R72 to R75). -/
inductive Instr
  -- 41_register_transfer.md: register load, store, increment and decrement
  /-- LDN, R101. -/
  | ldn (n : Nib)
  /-- LDA, R102. -/
  | lda (n : Nib)
  /-- LDX, R103. -/
  | ldx
  /-- LDXA, R104. -/
  | ldxa
  /-- LDI, R105. -/
  | ldi (b : Byte)
  /-- STR, R106. -/
  | str (n : Nib)
  /-- STXD, R107. -/
  | stxd
  /-- IRX, R108. -/
  | irx
  /-- INC, R109. -/
  | inc (n : Nib)
  /-- DEC, R110. -/
  | dec (n : Nib)
  /-- GLO, R111. -/
  | glo (n : Nib)
  /-- GHI, R112. -/
  | ghi (n : Nib)
  /-- PLO, R113. -/
  | plo (n : Nib)
  /-- PHI, R114. -/
  | phi (n : Nib)
  -- 42_short_branch.md: short branches and the short skip
  /-- BR, R121. -/
  | br (b : Byte)
  /-- BQ, R122. -/
  | bq (b : Byte)
  /-- BZ, R123. -/
  | bz (b : Byte)
  /-- BDF, R124. -/
  | bdf (b : Byte)
  /-- B1, R125. -/
  | b1 (b : Byte)
  /-- B2, R126. -/
  | b2 (b : Byte)
  /-- B3, R127. -/
  | b3 (b : Byte)
  /-- B4, R128. -/
  | b4 (b : Byte)
  /-- SKP, R129. -/
  | skp (b : Byte)
  /-- BNQ, R130. -/
  | bnq (b : Byte)
  /-- BNZ, R131. -/
  | bnz (b : Byte)
  /-- BNF, R132. -/
  | bnf (b : Byte)
  /-- BN1, R133. -/
  | bn1 (b : Byte)
  /-- BN2, R134. -/
  | bn2 (b : Byte)
  /-- BN3, R135. -/
  | bn3 (b : Byte)
  /-- BN4, R136. -/
  | bn4 (b : Byte)
  -- 43_long_branch.md: long branches, long skips and NOP
  /-- LBR, R142. -/
  | lbr (target : Word)
  /-- LBQ, R143. -/
  | lbq (target : Word)
  /-- LBZ, R144. -/
  | lbz (target : Word)
  /-- LBDF, R145. -/
  | lbdf (target : Word)
  /-- NOP, R146. -/
  | nop
  /-- LSNQ, R147. -/
  | lsnq
  /-- LSNZ, R148. -/
  | lsnz
  /-- LSNF, R149. -/
  | lsnf
  /-- LSKP, R150. -/
  | lskp
  /-- LBNQ, R151. -/
  | lbnq (target : Word)
  /-- LBNZ, R152. -/
  | lbnz (target : Word)
  /-- LBNF, R153. -/
  | lbnf (target : Word)
  /-- LSIE, R154. -/
  | lsie
  /-- LSQ, R155. -/
  | lsq
  /-- LSZ, R156. -/
  | lsz
  /-- LSDF, R157. -/
  | lsdf
  -- 44_arithmetic_logic.md: arithmetic, logic and shifts on D
  /-- OR, R162. -/
  | or
  /-- ORI, R163. -/
  | ori (b : Byte)
  /-- AND, R164. -/
  | and
  /-- ANI, R165. -/
  | ani (b : Byte)
  /-- XOR, R166. -/
  | xor
  /-- XRI, R167. -/
  | xri (b : Byte)
  /-- ADD, R168. -/
  | add
  /-- ADI, R169. -/
  | adi (b : Byte)
  /-- ADC, R170. -/
  | adc
  /-- ADCI, R171. -/
  | adci (b : Byte)
  /-- SD, R172. -/
  | sd
  /-- SDI, R173. -/
  | sdi (b : Byte)
  /-- SDB, R174. -/
  | sdb
  /-- SDBI, R175. -/
  | sdbi (b : Byte)
  /-- SM, R176. -/
  | sm
  /-- SMI, R177. -/
  | smi (b : Byte)
  /-- SMB, R178. -/
  | smb
  /-- SMBI, R179. -/
  | smbi (b : Byte)
  /-- SHR, R180. -/
  | shr
  /-- SHRC, R181. -/
  | shrc
  /-- SHL, R182. -/
  | shl
  /-- SHLC, R183. -/
  | shlc
  -- 45_control.md: the control group
  /-- IDL, R190. -/
  | idl
  /-- SEP, R191. -/
  | sep (n : Nib)
  /-- SEX, R192. -/
  | sex (n : Nib)
  /-- SEQ, R193. -/
  | seq
  /-- REQ, R194. -/
  | req
  /-- SAV, R195. -/
  | sav
  /-- MARK, R196. -/
  | mark
  /-- RET, R197. -/
  | ret
  /-- DIS, R198. -/
  | dis
  /-- RESERVED_68, R199. -/
  | reserved68
  -- 46_io.md: input and output
  /-- OUT, R211. -/
  | out (port : Port)
  /-- INP, R212. -/
  | inp (port : Port)
deriving DecidableEq, Repr

end Sys2Proof
end

