-- ==== Sys2Proof/WellFormed.lean ====
section
/-! DEFINITION. Which terms of `Instr` are instructions of the hardware. Register indices, port numbers, immediate bytes
and targets are in range by their types; the one term the encoding does not have is LDN of register 0. -/

namespace Sys2Proof

/-- An instruction some opcode encodes. "Load-via-R0 has no encoding" (30_encoding.md R78); every other constructor has
an opcode for every operand (30_encoding.md R76). -/
def Instr.wf : Instr → Bool
  | .ldn n => n != 0
  | .lda _ => true
  | .ldx => true
  | .ldxa => true
  | .ldi _ => true
  | .str _ => true
  | .stxd => true
  | .irx => true
  | .inc _ => true
  | .dec _ => true
  | .glo _ => true
  | .ghi _ => true
  | .plo _ => true
  | .phi _ => true
  | .br _ => true
  | .bq _ => true
  | .bz _ => true
  | .bdf _ => true
  | .b1 _ => true
  | .b2 _ => true
  | .b3 _ => true
  | .b4 _ => true
  | .skp _ => true
  | .bnq _ => true
  | .bnz _ => true
  | .bnf _ => true
  | .bn1 _ => true
  | .bn2 _ => true
  | .bn3 _ => true
  | .bn4 _ => true
  | .lbr _ => true
  | .lbq _ => true
  | .lbz _ => true
  | .lbdf _ => true
  | .nop => true
  | .lsnq => true
  | .lsnz => true
  | .lsnf => true
  | .lskp => true
  | .lbnq _ => true
  | .lbnz _ => true
  | .lbnf _ => true
  | .lsie => true
  | .lsq => true
  | .lsz => true
  | .lsdf => true
  | .or => true
  | .ori _ => true
  | .and => true
  | .ani _ => true
  | .xor => true
  | .xri _ => true
  | .add => true
  | .adi _ => true
  | .adc => true
  | .adci _ => true
  | .sd => true
  | .sdi _ => true
  | .sdb => true
  | .sdbi _ => true
  | .sm => true
  | .smi _ => true
  | .smb => true
  | .smbi _ => true
  | .shr => true
  | .shrc => true
  | .shl => true
  | .shlc => true
  | .idl => true
  | .sep _ => true
  | .sex _ => true
  | .seq => true
  | .req => true
  | .sav => true
  | .mark => true
  | .ret => true
  | .dis => true
  | .reserved68 => true
  | .out _ => true
  | .inp _ => true

end Sys2Proof
end

