-- ==== Sys2Proof/Decode.lean ====
section
/-! DEFINITION. Decoding: a total function from bytes to an instruction or a named rejection, written from the opcode
map of 30_encoding.md R76 row by row; then the encoder, written from the "Encoding" line of each instruction's rule. -/

namespace Sys2Proof

/-! ### Fields (00_scope.md R7) -/

/-- `b[7:4]`. -/
def hiNib (b : Byte) : Nib := b.extractLsb' 4 4

/-- `b[3:0]`. -/
def loNib (b : Byte) : Nib := b.extractLsb' 0 4

/-- `h:l`, a byte from two nibbles. -/
def nibPair (h l : Nib) : Byte := h ++ l

/-- `w[15:8]`, written `.1`. -/
def hiByte (w : Word) : Byte := w.extractLsb' 8 8

/-- `w[7:0]`, written `.0`. -/
def loByte (w : Word) : Byte := w.extractLsb' 0 8

/-- `h:l`, a 16-bit value from two bytes. -/
def bytePair (h l : Byte) : Word := h ++ l

/-- The port's number, 1 to 7. -/
def Port.number : Port → Nat
  | .p1 => 1
  | .p2 => 2
  | .p3 => 3
  | .p4 => 4
  | .p5 => 5
  | .p6 => 6
  | .p7 => 7

/-- The port of a number; none outside 1 to 7. -/
def Port.ofNumber : Nat → Option Port
  | 1 => some .p1
  | 2 => some .p2
  | 3 => some .p3
  | 4 => some .p4
  | 5 => some .p5
  | 6 => some .p6
  | 7 => some .p7
  | _ => none

/-- The line's number, 1 to 4. -/
def EfLine.number : EfLine → Nat
  | .ef1 => 1
  | .ef2 => 2
  | .ef3 => 3
  | .ef4 => 4

/-- The flag line of a number; none outside 1 to 4. -/
def EfLine.ofNumber : Nat → Option EfLine
  | 1 => some .ef1
  | 2 => some .ef2
  | 3 => some .ef3
  | 4 => some .ef4
  | _ => none

/-! ### Length and cost, from the opcode byte alone -/

/-- How many bytes an instruction has (30_encoding.md R71): two for the short branches and the immediates, three for the
long branches, one for every other opcode. -/
def instrLength (op : Byte) : Nat :=
  if hiNib op = 0x3 then 2
  else if op = 0x7C ∨ op = 0x7D ∨ op = 0x7F then 2
  else if (0xF8 ≤ op.toNat ∧ op.toNat ≤ 0xFD) ∨ op = 0xFF then 2
  else if (0xC0 ≤ op.toNat ∧ op.toNat ≤ 0xC3) ∨ (0xC9 ≤ op.toNat ∧ op.toNat ≤ 0xCB) then 3
  else 1

/-- The machine cycles of one execution of an opcode (30_encoding.md R79), the same whether or not a branch or skip is
taken. -/
def opcodeCost (op : Byte) : Nat :=
  if 0xC0 ≤ op.toNat ∧ op.toNat ≤ 0xCF then 3 else 2

/-! ### The opcode map (30_encoding.md R76)

In each `match` on a nibble the last row is written `_`: a nibble is below 16, so `_` is exactly 0xF. -/

/-- Row 0x3: the short branches; `b` is the branch byte. -/
def decodeShortBranch (n : Nib) (b : Byte) : Instr :=
  match n.toNat with
  | 0x0 => .br b
  | 0x1 => .bq b
  | 0x2 => .bz b
  | 0x3 => .bdf b
  | 0x4 => .b1 b
  | 0x5 => .b2 b
  | 0x6 => .b3 b
  | 0x7 => .b4 b
  | 0x8 => .skp b
  | 0x9 => .bnq b
  | 0xA => .bnz b
  | 0xB => .bnf b
  | 0xC => .bn1 b
  | 0xD => .bn2 b
  | 0xE => .bn3 b
  | _ => .bn4 b

/-- Row 0x6: IRX, OUT 1 to 7, the reserved 0x68, INP 1 to 7; the port is `N AND 7` (46_io.md R210). -/
def decodeInOut (n : Nib) : Instr :=
  match n.toNat with
  | 0x0 => .irx
  | 0x1 => .out .p1
  | 0x2 => .out .p2
  | 0x3 => .out .p3
  | 0x4 => .out .p4
  | 0x5 => .out .p5
  | 0x6 => .out .p6
  | 0x7 => .out .p7
  | 0x8 => .reserved68
  | 0x9 => .inp .p1
  | 0xA => .inp .p2
  | 0xB => .inp .p3
  | 0xC => .inp .p4
  | 0xD => .inp .p5
  | 0xE => .inp .p6
  | _ => .inp .p7

/-- Row 0x7: control, carry arithmetic and its immediate forms; `b` is the immediate byte where there is one. -/
def decodeSeven (n : Nib) (b : Byte) : Instr :=
  match n.toNat with
  | 0x0 => .ret
  | 0x1 => .dis
  | 0x2 => .ldxa
  | 0x3 => .stxd
  | 0x4 => .adc
  | 0x5 => .sdb
  | 0x6 => .shrc
  | 0x7 => .smb
  | 0x8 => .sav
  | 0x9 => .mark
  | 0xA => .req
  | 0xB => .seq
  | 0xC => .adci b
  | 0xD => .sdbi b
  | 0xE => .shlc
  | _ => .smbi b

/-- Row 0xC: the long branches, NOP and the long skips; `target` is the two bytes after the opcode. -/
def decodeLong (n : Nib) (target : Word) : Instr :=
  match n.toNat with
  | 0x0 => .lbr target
  | 0x1 => .lbq target
  | 0x2 => .lbz target
  | 0x3 => .lbdf target
  | 0x4 => .nop
  | 0x5 => .lsnq
  | 0x6 => .lsnz
  | 0x7 => .lsnf
  | 0x8 => .lskp
  | 0x9 => .lbnq target
  | 0xA => .lbnz target
  | 0xB => .lbnf target
  | 0xC => .lsie
  | 0xD => .lsq
  | 0xE => .lsz
  | _ => .lsdf

/-- Row 0xF: arithmetic, logic and shifts on D; `b` is the immediate byte where there is one. -/
def decodeF (n : Nib) (b : Byte) : Instr :=
  match n.toNat with
  | 0x0 => .ldx
  | 0x1 => .or
  | 0x2 => .and
  | 0x3 => .xor
  | 0x4 => .add
  | 0x5 => .sd
  | 0x6 => .shr
  | 0x7 => .sm
  | 0x8 => .ldi b
  | 0x9 => .ori b
  | 0xA => .ani b
  | 0xB => .xri b
  | 0xC => .adi b
  | 0xD => .sdi b
  | 0xE => .shl
  | _ => .smi b

/-- The instruction of an opcode byte and the two bytes after it, of which it uses as many as `instrLength` says. Total
over all 256 opcode bytes (30_encoding.md R77). -/
def decodeOp (op b1 b2 : Byte) : Instr :=
  let n := loNib op
  match (hiNib op).toNat with
  | 0x0 => if n = 0 then .idl else .ldn n
  | 0x1 => .inc n
  | 0x2 => .dec n
  | 0x3 => decodeShortBranch n b1
  | 0x4 => .lda n
  | 0x5 => .str n
  | 0x6 => decodeInOut n
  | 0x7 => decodeSeven n b1
  | 0x8 => .glo n
  | 0x9 => .ghi n
  | 0xA => .plo n
  | 0xB => .phi n
  | 0xC => decodeLong n (bytePair b1 b2)
  | 0xD => .sep n
  | 0xE => .sex n
  | _ => decodeF n b1

/-- Why a list of bytes holds no whole instruction. No opcode is ever rejected (30_encoding.md R77). -/
inductive DecodeError
  /-- The list is empty. -/
  | noOpcode
  /-- The opcode needs `needed` bytes in all and the list has fewer. -/
  | truncated (needed : Nat)
deriving DecidableEq, Repr

/-- Decode the first instruction of a list of bytes, and give the rest of the list back. -/
def decode : List Byte → Checked DecodeError (Instr × List Byte)
  | [] => .bad .noOpcode
  | op :: rest =>
    match instrLength op, rest with
    | 1, rest => .ok (decodeOp op 0 0, rest)
    | 2, b1 :: rest => .ok (decodeOp op b1 0, rest)
    | 3, b1 :: b2 :: rest => .ok (decodeOp op b1 b2, rest)
    | needed, _ => .bad (.truncated needed)

/-- The low `nbits` bits of `w` as three bytes in the order memory holds them: bit 0 of `w` is bit 0 of the opcode byte,
bits 15 to 8 are the second byte, bits 23 to 16 the third. -/
def tableBytes (nbits w : Nat) : List Byte :=
  let v := w % 2 ^ nbits
  [BitVec.ofNat 8 v, BitVec.ofNat 8 (v / 2 ^ 8), BitVec.ofNat 8 (v / 2 ^ 16)]

/-- The instruction the decoder reads from an instruction word numbered as spec/opcode_table.json numbers it. -/
def decodeTableWord (nbits w : Nat) : Option Instr :=
  match decode (tableBytes nbits w) with
  | .ok (i, _) => some i
  | .bad _ => none

/-! ### The encoder -/

/-- An opcode with a register index in its low nibble. -/
def regOpcode (row n : Nib) : Byte := nibPair row n

/-- `01100ppp` with `d` = 0 for OUT, `01101ppp` with `d` = 8 for INP (46_io.md R210 to R212). -/
def portOpcode (d : Nat) (port : Port) : Byte := BitVec.ofNat 8 (0x60 + d + port.number)

/-- The opcode byte of an instruction. -/
def Instr.opcode : Instr → Byte
  | .ldn n => regOpcode 0x0 n
  | .lda n => regOpcode 0x4 n
  | .ldx => 0xF0
  | .ldxa => 0x72
  | .ldi _ => 0xF8
  | .str n => regOpcode 0x5 n
  | .stxd => 0x73
  | .irx => 0x60
  | .inc n => regOpcode 0x1 n
  | .dec n => regOpcode 0x2 n
  | .glo n => regOpcode 0x8 n
  | .ghi n => regOpcode 0x9 n
  | .plo n => regOpcode 0xA n
  | .phi n => regOpcode 0xB n
  | .br _ => 0x30
  | .bq _ => 0x31
  | .bz _ => 0x32
  | .bdf _ => 0x33
  | .b1 _ => 0x34
  | .b2 _ => 0x35
  | .b3 _ => 0x36
  | .b4 _ => 0x37
  | .skp _ => 0x38
  | .bnq _ => 0x39
  | .bnz _ => 0x3A
  | .bnf _ => 0x3B
  | .bn1 _ => 0x3C
  | .bn2 _ => 0x3D
  | .bn3 _ => 0x3E
  | .bn4 _ => 0x3F
  | .lbr _ => 0xC0
  | .lbq _ => 0xC1
  | .lbz _ => 0xC2
  | .lbdf _ => 0xC3
  | .nop => 0xC4
  | .lsnq => 0xC5
  | .lsnz => 0xC6
  | .lsnf => 0xC7
  | .lskp => 0xC8
  | .lbnq _ => 0xC9
  | .lbnz _ => 0xCA
  | .lbnf _ => 0xCB
  | .lsie => 0xCC
  | .lsq => 0xCD
  | .lsz => 0xCE
  | .lsdf => 0xCF
  | .or => 0xF1
  | .ori _ => 0xF9
  | .and => 0xF2
  | .ani _ => 0xFA
  | .xor => 0xF3
  | .xri _ => 0xFB
  | .add => 0xF4
  | .adi _ => 0xFC
  | .adc => 0x74
  | .adci _ => 0x7C
  | .sd => 0xF5
  | .sdi _ => 0xFD
  | .sdb => 0x75
  | .sdbi _ => 0x7D
  | .sm => 0xF7
  | .smi _ => 0xFF
  | .smb => 0x77
  | .smbi _ => 0x7F
  | .shr => 0xF6
  | .shrc => 0x76
  | .shl => 0xFE
  | .shlc => 0x7E
  | .idl => 0x00
  | .sep n => regOpcode 0xD n
  | .sex n => regOpcode 0xE n
  | .seq => 0x7B
  | .req => 0x7A
  | .sav => 0x78
  | .mark => 0x79
  | .ret => 0x70
  | .dis => 0x71
  | .reserved68 => 0x68
  | .out port => portOpcode 0 port
  | .inp port => portOpcode 8 port

/-- The bytes after the opcode: an immediate or branch byte, or a target with its high byte first (30_encoding.md R72 to
R74). -/
def Instr.operandBytes : Instr → List Byte
  | .ldn _ => []
  | .lda _ => []
  | .ldx => []
  | .ldxa => []
  | .ldi b => [b]
  | .str _ => []
  | .stxd => []
  | .irx => []
  | .inc _ => []
  | .dec _ => []
  | .glo _ => []
  | .ghi _ => []
  | .plo _ => []
  | .phi _ => []
  | .br b => [b]
  | .bq b => [b]
  | .bz b => [b]
  | .bdf b => [b]
  | .b1 b => [b]
  | .b2 b => [b]
  | .b3 b => [b]
  | .b4 b => [b]
  | .skp b => [b]
  | .bnq b => [b]
  | .bnz b => [b]
  | .bnf b => [b]
  | .bn1 b => [b]
  | .bn2 b => [b]
  | .bn3 b => [b]
  | .bn4 b => [b]
  | .lbr target => [hiByte target, loByte target]
  | .lbq target => [hiByte target, loByte target]
  | .lbz target => [hiByte target, loByte target]
  | .lbdf target => [hiByte target, loByte target]
  | .nop => []
  | .lsnq => []
  | .lsnz => []
  | .lsnf => []
  | .lskp => []
  | .lbnq target => [hiByte target, loByte target]
  | .lbnz target => [hiByte target, loByte target]
  | .lbnf target => [hiByte target, loByte target]
  | .lsie => []
  | .lsq => []
  | .lsz => []
  | .lsdf => []
  | .or => []
  | .ori b => [b]
  | .and => []
  | .ani b => [b]
  | .xor => []
  | .xri b => [b]
  | .add => []
  | .adi b => [b]
  | .adc => []
  | .adci b => [b]
  | .sd => []
  | .sdi b => [b]
  | .sdb => []
  | .sdbi b => [b]
  | .sm => []
  | .smi b => [b]
  | .smb => []
  | .smbi b => [b]
  | .shr => []
  | .shrc => []
  | .shl => []
  | .shlc => []
  | .idl => []
  | .sep _ => []
  | .sex _ => []
  | .seq => []
  | .req => []
  | .sav => []
  | .mark => []
  | .ret => []
  | .dis => []
  | .reserved68 => []
  | .out _ => []
  | .inp _ => []

/-- The bytes of an instruction, in the order memory holds them. -/
def encode (i : Instr) : List Byte := i.opcode :: i.operandBytes

/-! ### What each constructor decodes from

Each word is written out from the rule's "Encoding" line; the first byte of the list is the opcode. -/

/-! 41_register_transfer.md: register load, store, increment and decrement -/

/-- LDN, R101. -/
theorem decode_ldn : decode [0b00001001] = .ok (.ldn 9, []) := by decide

/-- LDA, R102. -/
theorem decode_lda : decode [0b01001001] = .ok (.lda 9, []) := by decide

/-- LDX, R103. -/
theorem decode_ldx : decode [0b11110000] = .ok (.ldx, []) := by decide

/-- LDXA, R104. -/
theorem decode_ldxa : decode [0b01110010] = .ok (.ldxa, []) := by decide

/-- LDI, R105. -/
theorem decode_ldi : decode [0b11111000, 0b10100101] = .ok (.ldi 0xA5, []) := by decide

/-- STR, R106. -/
theorem decode_str : decode [0b01011001] = .ok (.str 9, []) := by decide

/-- STXD, R107. -/
theorem decode_stxd : decode [0b01110011] = .ok (.stxd, []) := by decide

/-- IRX, R108. -/
theorem decode_irx : decode [0b01100000] = .ok (.irx, []) := by decide

/-- INC, R109. -/
theorem decode_inc : decode [0b00011001] = .ok (.inc 9, []) := by decide

/-- DEC, R110. -/
theorem decode_dec : decode [0b00101001] = .ok (.dec 9, []) := by decide

/-- GLO, R111. -/
theorem decode_glo : decode [0b10001001] = .ok (.glo 9, []) := by decide

/-- GHI, R112. -/
theorem decode_ghi : decode [0b10011001] = .ok (.ghi 9, []) := by decide

/-- PLO, R113. -/
theorem decode_plo : decode [0b10101001] = .ok (.plo 9, []) := by decide

/-- PHI, R114. -/
theorem decode_phi : decode [0b10111001] = .ok (.phi 9, []) := by decide

/-! 42_short_branch.md: short branches and the short skip -/

/-- BR, R121. -/
theorem decode_br : decode [0b00110000, 0b10100101] = .ok (.br 0xA5, []) := by decide

/-- BQ, R122. -/
theorem decode_bq : decode [0b00110001, 0b10100101] = .ok (.bq 0xA5, []) := by decide

/-- BZ, R123. -/
theorem decode_bz : decode [0b00110010, 0b10100101] = .ok (.bz 0xA5, []) := by decide

/-- BDF, R124. -/
theorem decode_bdf : decode [0b00110011, 0b10100101] = .ok (.bdf 0xA5, []) := by decide

/-- B1, R125. -/
theorem decode_b1 : decode [0b00110100, 0b10100101] = .ok (.b1 0xA5, []) := by decide

/-- B2, R126. -/
theorem decode_b2 : decode [0b00110101, 0b10100101] = .ok (.b2 0xA5, []) := by decide

/-- B3, R127. -/
theorem decode_b3 : decode [0b00110110, 0b10100101] = .ok (.b3 0xA5, []) := by decide

/-- B4, R128. -/
theorem decode_b4 : decode [0b00110111, 0b10100101] = .ok (.b4 0xA5, []) := by decide

/-- SKP, R129. -/
theorem decode_skp : decode [0b00111000, 0b10100101] = .ok (.skp 0xA5, []) := by decide

/-- BNQ, R130. -/
theorem decode_bnq : decode [0b00111001, 0b10100101] = .ok (.bnq 0xA5, []) := by decide

/-- BNZ, R131. -/
theorem decode_bnz : decode [0b00111010, 0b10100101] = .ok (.bnz 0xA5, []) := by decide

/-- BNF, R132. -/
theorem decode_bnf : decode [0b00111011, 0b10100101] = .ok (.bnf 0xA5, []) := by decide

/-- BN1, R133. -/
theorem decode_bn1 : decode [0b00111100, 0b10100101] = .ok (.bn1 0xA5, []) := by decide

/-- BN2, R134. -/
theorem decode_bn2 : decode [0b00111101, 0b10100101] = .ok (.bn2 0xA5, []) := by decide

/-- BN3, R135. -/
theorem decode_bn3 : decode [0b00111110, 0b10100101] = .ok (.bn3 0xA5, []) := by decide

/-- BN4, R136. -/
theorem decode_bn4 : decode [0b00111111, 0b10100101] = .ok (.bn4 0xA5, []) := by decide

/-! 43_long_branch.md: long branches, long skips and NOP -/

/-- LBR, R142. -/
theorem decode_lbr : decode [0b11000000, 0b00010010, 0b00110100] = .ok (.lbr 0x1234, []) := by decide

/-- LBQ, R143. -/
theorem decode_lbq : decode [0b11000001, 0b00010010, 0b00110100] = .ok (.lbq 0x1234, []) := by decide

/-- LBZ, R144. -/
theorem decode_lbz : decode [0b11000010, 0b00010010, 0b00110100] = .ok (.lbz 0x1234, []) := by decide

/-- LBDF, R145. -/
theorem decode_lbdf : decode [0b11000011, 0b00010010, 0b00110100] = .ok (.lbdf 0x1234, []) := by decide

/-- NOP, R146. -/
theorem decode_nop : decode [0b11000100] = .ok (.nop, []) := by decide

/-- LSNQ, R147. -/
theorem decode_lsnq : decode [0b11000101] = .ok (.lsnq, []) := by decide

/-- LSNZ, R148. -/
theorem decode_lsnz : decode [0b11000110] = .ok (.lsnz, []) := by decide

/-- LSNF, R149. -/
theorem decode_lsnf : decode [0b11000111] = .ok (.lsnf, []) := by decide

/-- LSKP, R150. -/
theorem decode_lskp : decode [0b11001000] = .ok (.lskp, []) := by decide

/-- LBNQ, R151. -/
theorem decode_lbnq : decode [0b11001001, 0b00010010, 0b00110100] = .ok (.lbnq 0x1234, []) := by decide

/-- LBNZ, R152. -/
theorem decode_lbnz : decode [0b11001010, 0b00010010, 0b00110100] = .ok (.lbnz 0x1234, []) := by decide

/-- LBNF, R153. -/
theorem decode_lbnf : decode [0b11001011, 0b00010010, 0b00110100] = .ok (.lbnf 0x1234, []) := by decide

/-- LSIE, R154. -/
theorem decode_lsie : decode [0b11001100] = .ok (.lsie, []) := by decide

/-- LSQ, R155. -/
theorem decode_lsq : decode [0b11001101] = .ok (.lsq, []) := by decide

/-- LSZ, R156. -/
theorem decode_lsz : decode [0b11001110] = .ok (.lsz, []) := by decide

/-- LSDF, R157. -/
theorem decode_lsdf : decode [0b11001111] = .ok (.lsdf, []) := by decide

/-! 44_arithmetic_logic.md: arithmetic, logic and shifts on D -/

/-- OR, R162. -/
theorem decode_or : decode [0b11110001] = .ok (.or, []) := by decide

/-- ORI, R163. -/
theorem decode_ori : decode [0b11111001, 0b10100101] = .ok (.ori 0xA5, []) := by decide

/-- AND, R164. -/
theorem decode_and : decode [0b11110010] = .ok (.and, []) := by decide

/-- ANI, R165. -/
theorem decode_ani : decode [0b11111010, 0b10100101] = .ok (.ani 0xA5, []) := by decide

/-- XOR, R166. -/
theorem decode_xor : decode [0b11110011] = .ok (.xor, []) := by decide

/-- XRI, R167. -/
theorem decode_xri : decode [0b11111011, 0b10100101] = .ok (.xri 0xA5, []) := by decide

/-- ADD, R168. -/
theorem decode_add : decode [0b11110100] = .ok (.add, []) := by decide

/-- ADI, R169. -/
theorem decode_adi : decode [0b11111100, 0b10100101] = .ok (.adi 0xA5, []) := by decide

/-- ADC, R170. -/
theorem decode_adc : decode [0b01110100] = .ok (.adc, []) := by decide

/-- ADCI, R171. -/
theorem decode_adci : decode [0b01111100, 0b10100101] = .ok (.adci 0xA5, []) := by decide

/-- SD, R172. -/
theorem decode_sd : decode [0b11110101] = .ok (.sd, []) := by decide

/-- SDI, R173. -/
theorem decode_sdi : decode [0b11111101, 0b10100101] = .ok (.sdi 0xA5, []) := by decide

/-- SDB, R174. -/
theorem decode_sdb : decode [0b01110101] = .ok (.sdb, []) := by decide

/-- SDBI, R175. -/
theorem decode_sdbi : decode [0b01111101, 0b10100101] = .ok (.sdbi 0xA5, []) := by decide

/-- SM, R176. -/
theorem decode_sm : decode [0b11110111] = .ok (.sm, []) := by decide

/-- SMI, R177. -/
theorem decode_smi : decode [0b11111111, 0b10100101] = .ok (.smi 0xA5, []) := by decide

/-- SMB, R178. -/
theorem decode_smb : decode [0b01110111] = .ok (.smb, []) := by decide

/-- SMBI, R179. -/
theorem decode_smbi : decode [0b01111111, 0b10100101] = .ok (.smbi 0xA5, []) := by decide

/-- SHR, R180. -/
theorem decode_shr : decode [0b11110110] = .ok (.shr, []) := by decide

/-- SHRC, R181. -/
theorem decode_shrc : decode [0b01110110] = .ok (.shrc, []) := by decide

/-- SHL, R182. -/
theorem decode_shl : decode [0b11111110] = .ok (.shl, []) := by decide

/-- SHLC, R183. -/
theorem decode_shlc : decode [0b01111110] = .ok (.shlc, []) := by decide

/-! 45_control.md: the control group -/

/-- IDL, R190. -/
theorem decode_idl : decode [0b00000000] = .ok (.idl, []) := by decide

/-- SEP, R191. -/
theorem decode_sep : decode [0b11011001] = .ok (.sep 9, []) := by decide

/-- SEX, R192. -/
theorem decode_sex : decode [0b11101001] = .ok (.sex 9, []) := by decide

/-- SEQ, R193. -/
theorem decode_seq : decode [0b01111011] = .ok (.seq, []) := by decide

/-- REQ, R194. -/
theorem decode_req : decode [0b01111010] = .ok (.req, []) := by decide

/-- SAV, R195. -/
theorem decode_sav : decode [0b01111000] = .ok (.sav, []) := by decide

/-- MARK, R196. -/
theorem decode_mark : decode [0b01111001] = .ok (.mark, []) := by decide

/-- RET, R197. -/
theorem decode_ret : decode [0b01110000] = .ok (.ret, []) := by decide

/-- DIS, R198. -/
theorem decode_dis : decode [0b01110001] = .ok (.dis, []) := by decide

/-- RESERVED_68, R199. -/
theorem decode_reserved68 : decode [0b01101000] = .ok (.reserved68, []) := by decide

/-! 46_io.md: input and output -/

/-- OUT, R211. -/
theorem decode_out : decode [0b01100101] = .ok (.out .p5, []) := by decide

/-- INP, R212. -/
theorem decode_inp : decode [0b01101101] = .ok (.inp .p5, []) := by decide

end Sys2Proof
end

