-- ==== Sys2Proof/Config.lean ====
section
/-! DEFINITION. The parameters of 00_scope.md R6. `Config` holds those a running machine consults; `LaunchConfig` is the
whole configuration surface as the host supplies it, not yet checked (70_reset_and_hazards.md R270 to R274). -/

namespace Sys2Proof

/-- An exact non-negative rational, numerator over denominator. Two pairs may stand for one rational; nothing compares
them (log 18). -/
structure Ratio where
  num : Nat
  den : Nat
deriving DecidableEq, Repr

/-- `OP68_MODE` (45_control.md R199, 92_eei_decisions.md D4). -/
inductive Op68Mode
  | nop | idle
deriving DecidableEq, Repr

/-- `IO_LATCH_MODEL` (10_state.md R30, 92_eei_decisions.md D6). -/
inductive IoLatchModel
  | shared | split
deriving DecidableEq, Repr

/-- The parameters a running machine consults. IO_LATCH_MODEL is not among them: it is the shape of the latches
(`Machine.Latches`, log 11). -/
structure Config where
  /-- `MEM_SIZE`, 1 to 65536. -/
  memSize : Nat
  /-- `CYCLE_NS`, the length of a machine cycle in nanoseconds, given or derived from `CLOCK_HZ`. -/
  cycleNs : Ratio
  /-- `Q_INVERT`. -/
  qInvert : Bool
  /-- `INT_ACK_CYCLES`, at least 1. -/
  intAckCycles : Nat
  /-- `IDLE_PASS_CYCLES`, at least 1. -/
  idlePassCycles : Nat
  /-- `OP68_MODE`. -/
  op68Mode : Op68Mode
deriving DecidableEq, Repr

/-- The defaults of 00_scope.md R6. DESIGN CHOICE (unsafe, log 2): `CYCLE_NS` has no default in the spec; 1000 is the
value 95_test_vectors.md uses. -/
def Config.default : Config where
  memSize := 65536
  cycleNs := ⟨1000, 1⟩
  qInvert := false
  intAckCycles := 1
  idlePassCycles := 1
  op68Mode := .nop

/-- `LAUNCH_FREE`: the start values the spec does not give (00_scope.md R6, 70_reset_and_hazards.md R271). -/
structure LaunchFree where
  d : Byte
  df : Bool
  t : Byte
  /-- `R[0..15]`; the entry of `R[P]` is overwritten by `INIT_RP`. -/
  r : Vector Word 16
  /-- `PORT[1..7]` under `shared`, `OUT_PORT[1..7]` under `split`. -/
  ports : Vector Byte 7
  /-- `IN_PORT[1..7]` under `split`; not used under `shared`. -/
  inPorts : Vector Byte 7
deriving DecidableEq, Repr

/-- The free launch values of a simulator run: all 0 (92_eei_decisions.md D15). -/
def LaunchFree.zero : LaunchFree where
  d := 0
  df := false
  t := 0
  r := .replicate 16 0
  ports := .replicate 7 0
  inPorts := .replicate 7 0

/-- The configuration surface, unchecked: the values a user writes are plain numbers and text, so that a value outside
its width can be written and refused (70_reset_and_hazards.md R274). -/
structure LaunchConfig where
  memSize : Nat
  image : List Byte
  loadOffset : Nat
  cycleNs : Option Ratio
  clockHz : Option Ratio
  qInvert : Bool
  initRp : Nat
  initIe : Nat
  initQ : Nat
  initEf : Vector Nat 4
  startPc : Option Nat
  eventLog : String
  intAckCycles : Nat
  idlePassCycles : Nat
  op68Mode : Op68Mode
  ioLatchModel : IoLatchModel
  free : LaunchFree
deriving DecidableEq, Repr

/-- The defaults of 00_scope.md R6, with the simulator's free launch values and `CYCLE_NS` = 1000 (log 2, log 3). -/
def LaunchConfig.default : LaunchConfig where
  memSize := 65536
  image := []
  loadOffset := 0
  cycleNs := some ⟨1000, 1⟩
  clockHz := none
  qInvert := false
  initRp := 0
  initIe := 1
  initQ := 0
  initEf := .replicate 4 0
  startPc := none
  eventLog := ""
  intAckCycles := 1
  idlePassCycles := 1
  op68Mode := .nop
  ioLatchModel := .shared
  free := .zero

end Sys2Proof
end

