-- ==== Sys2Proof/Machine/State.lean ====
section
/-! DEFINITION. The machine's state as plain data (10_state.md R20 to R37, 20_memory.md R50), why a step can stop, and the
state right after reset (70_reset_and_hazards.md R270, R271). -/

namespace Sys2Proof.Machine

/-- What an event does when it is applied (10_state.md R34). -/
inductive EventKind
  /-- `Flag{line, value}`, 60_exceptions.md R238. -/
  | flag (line : EfLine) (value : Bool)
  /-- `Interrupt`, 60_exceptions.md R239. -/
  | interrupt
  /-- `Input{port, value}`, 60_exceptions.md R240. -/
  | input (port : Port) (value : Byte)
deriving DecidableEq, Repr

/-- An event: a 64-bit time in nanoseconds and a kind (10_state.md R34). -/
structure Event where
  time : Fin (2 ^ 64)
  kind : EventKind
deriving DecidableEq, Repr

/-- The port latches under the two values of `IO_LATCH_MODEL` (10_state.md R30): one latch per port, or an output and an
input latch per port. Entry k of a vector is port k + 1. -/
inductive Latches
  | shared (port : Vector Byte 7)
  | split (outPort inPort : Vector Byte 7)
deriving DecidableEq, Repr

/-- `RUN` (10_state.md R35). -/
inductive RunState
  | running | halted
deriving DecidableEq, Repr

/-- Memory: the cells that differ from what an unlisted cell reads as, by rising cell number (`Memory.wf`). -/
abbrev Memory := List Host.Cell

/-- All the state the spec gives the machine, and the launch parameters it consults. -/
@[ext]
structure State where
  /-- MODEL's own field (log 1): the launch parameters; nothing writes it. -/
  cfg : Config
  /-- `D`, the accumulator (R21). -/
  d : Byte
  /-- `DF`, the carry/borrow flag (R22). -/
  df : Bool
  /-- `R[0..15]` (R23). -/
  r : Vector Word 16
  /-- `P`, the index of the program counter (R24). -/
  p : Nib
  /-- `X`, the index of the data pointer (R25). -/
  x : Nib
  /-- `T`, the saved `X:P` (R26). -/
  t : Byte
  /-- `IE` (R27). -/
  ie : Bool
  /-- `Q` (R28). -/
  q : Bool
  /-- `EF[1..4]`; entry k is line k + 1 (R29). -/
  ef : Vector Bool 4
  /-- `PORT`, or `OUT_PORT` and `IN_PORT` (R30). -/
  latches : Latches
  /-- The memory cells (20_memory.md R50). -/
  mem : Memory
  /-- `INT_PENDING` (R31). -/
  intPending : Bool
  /-- `IDLE` (R32). -/
  idle : Bool
  /-- `CYCLES` (R33). -/
  cycles : Nat
  /-- `EQ`, ascending by time (R34). -/
  queue : List Event
  /-- `RUN` (R35). -/
  run : RunState
deriving DecidableEq, Repr

/-- Why the machine is stuck. The hardware itself has no runtime fault (60_exceptions.md R220). -/
inductive Fault
  /-- Raised by `step` on a machine the host has stopped: "In `Halted` there is no iteration" (60_exceptions.md R230).
  Safe (log 6). -/
  | halted
deriving DecidableEq, Repr

/-- Why the model gives no next state. -/
inductive Refusal
  /-- Raised by `exec` for an instruction that has no meaning yet; no instruction of this model is. Safe. -/
  | notModelled (mnemonic : String)
  /-- Raised by `step` when the iteration would take `now_ns` past 2^64 - 1: such a run is outside the spec
  (93_implementation_defined.md U14). Safe (log 7). -/
  | timeBeyond64Bits
  /-- Raised by a host poke or injection of a value outside its range (60_exceptions.md R246); the state is unchanged.
  Safe (log 10). -/
  | outOfRange
  /-- Raised by a host poke of a latch the latch model does not have (10_state.md R30); the state is unchanged. Safe
  (log 10). -/
  | noSuchLatch
deriving DecidableEq, Repr

/-- The machine right after reset: `Reset` of the default configuration (70_reset_and_hazards.md R270, R271), which has
an empty image and an empty event log. DESIGN CHOICE (unsafe, log 3): the free launch inputs D, DF, T, R[1..15] and the
latches are 0. -/
def State.reset : State where
  cfg := .default
  d := 0
  df := false
  r := .replicate 16 0
  p := 0
  x := 0
  t := 0
  ie := true
  q := false
  ef := .replicate 4 false
  latches := .shared (.replicate 7 0)
  mem := []
  intPending := false
  idle := false
  cycles := 0
  queue := []
  run := .running

end Sys2Proof.Machine
end

