-- ==== Sys2Proof/Machine/Ops.lean ====
section
/-! DEFINITION. The named operations over memory, registers, latches and the clock, the interrupt acknowledgement and the
return from it. Every instruction and every phase of the loop is written over these. -/

namespace Sys2Proof.Machine

/-- What an instruction, an iteration or a host command answers. -/
abbrev Result := Host.Outcome State Fault Refusal

/-! ### Memory as a list of cells (20_memory.md R50, R51, R55) -/

namespace Memory

/-- What an unlisted cell reads as: "all memory is zero-initialized" (20_memory.md R55). -/
def unlisted : Byte := 0

/-- The byte of a cell. -/
def read (a : Nat) : Memory → Byte
  | [] => unlisted
  | (b, v) :: m => if b = a then v else read a m

/-- Drop a cell from the list, so that it reads as unlisted. -/
def erase (a : Nat) (m : Memory) : Memory := m.filter fun c => c.1 != a

/-- Put a cell before the first one with a higher number. -/
def insert (a : Nat) (v : Byte) : Memory → Memory
  | [] => [(a, v)]
  | (b, w) :: m => if a < b then (a, v) :: (b, w) :: m else (b, w) :: insert a v m

/-- Store a byte in a cell, and keep the canonical form. -/
def write (a : Nat) (v : Byte) (m : Memory) : Memory :=
  if v = unlisted then erase a m else insert a v (erase a m)

/-- Bulk load of bytes from a cell on (20_memory.md R55). -/
def load (offset : Nat) : List Byte → Memory → Memory
  | [], m => m
  | v :: vs, m => load (offset + 1) vs (write offset v m)

/-- The canonical form: cell numbers strictly rising, and no cell listed with the byte an unlisted one reads as. -/
def wf : Memory → Bool
  | [] => true
  | (a, v) :: m => v != unlisted && m.all (fun c => a < c.1) && wf m

/-- Every listed cell exists: its number is below `MEM_SIZE` (20_memory.md R50). -/
def within (size : Nat) (m : Memory) : Bool := m.all fun c => c.1 < size

end Memory

namespace State

/-- The cell a 16-bit address selects: `a mod MEM_SIZE` (20_memory.md R50). -/
def cellOf (s : State) (a : Word) : Nat := a.toNat % s.cfg.memSize

/-- `MemRead(a, 1)` (20_memory.md R51). -/
def memRead (s : State) (a : Word) : Byte := s.mem.read (s.cellOf a)

/-- `MemWrite(a, 1, v)` (20_memory.md R51). -/
def memWrite (s : State) (a : Word) (v : Byte) : State := { s with mem := s.mem.write (s.cellOf a) v }

/-! ### Registers and flags -/

/-- `R[n]`. -/
def reg (s : State) (n : Nib) : Word := s.r[n.toNat]'n.isLt

/-- `R[n] <- v`. -/
def setReg (s : State) (n : Nib) (v : Word) : State := { s with r := s.r.set n.toNat v n.isLt }

/-- `R[P]`, the program counter (10_state.md R24). -/
def pc (s : State) : Word := s.reg s.p

/-- `R[n] <- (R[n] + 1) mod 65536` (41_register_transfer.md R109). -/
def incReg (s : State) (n : Nib) : State := s.setReg n (s.reg n + 1)

/-- `R[n] <- (R[n] - 1) mod 65536` (41_register_transfer.md R110). -/
def decReg (s : State) (n : Nib) : State := s.setReg n (s.reg n - 1)

/-- `R[P] <- v`, written `pc <- v` (00_scope.md R9). -/
def setPc (s : State) (v : Word) : State := s.setReg s.p v

/-- `R[P] <- (R[P] + 1) mod 65536`: past the byte just read from the instruction stream (30_encoding.md R80, R81). -/
def advancePc (s : State) : State := s.incReg s.p

/-- `D <- v`. -/
def setD (s : State) (v : Byte) : State := { s with d := v }

/-- `(D, DF) <- (v, c)`. -/
def setDDf (s : State) (res : Byte × Bool) : State := { s with d := res.1, df := res.2 }

/-- `P <- n`. -/
def setP (s : State) (n : Nib) : State := { s with p := n }

/-- `X <- n`. -/
def setX (s : State) (n : Nib) : State := { s with x := n }

/-- `T <- v`. -/
def setT (s : State) (v : Byte) : State := { s with t := v }

/-- `IE <- b`. -/
def setIe (s : State) (b : Bool) : State := { s with ie := b }

/-- `Q <- b`. -/
def setQ (s : State) (b : Bool) : State := { s with q := b }

/-- `IDLE <- b`. -/
def setIdle (s : State) (b : Bool) : State := { s with idle := b }

/-- `INT_PENDING <- b`. -/
def setIntPending (s : State) (b : Bool) : State := { s with intPending := b }

/-- `EQ <- q`. -/
def setQueue (s : State) (q : List Event) : State := { s with queue := q }

/-- The entry of a flag line. -/
def efIndex : EfLine → Fin 4
  | .ef1 => 0
  | .ef2 => 1
  | .ef3 => 2
  | .ef4 => 3

/-- `EF[line]`. -/
def efOf (s : State) (line : EfLine) : Bool := s.ef[efIndex line]

/-- `EF[line] <- b`. -/
def setEf (s : State) (line : EfLine) (b : Bool) : State :=
  { s with ef := s.ef.set (efIndex line).val b (efIndex line).isLt }

/-- `Q_OUT = Q XOR Q_INVERT` (10_state.md R28). -/
def qOut (s : State) : Bool := s.q ^^ s.cfg.qInvert

end State

/-! ### Port latches (10_state.md R30, 46_io.md R213) -/

/-- The entry of a port. -/
def portIndex : Port → Fin 7
  | .p1 => 0
  | .p2 => 1
  | .p3 => 2
  | .p4 => 3
  | .p5 => 4
  | .p6 => 5
  | .p7 => 6

/-- One latch of seven. -/
def latchGet (v : Vector Byte 7) (port : Port) : Byte := v[portIndex port]

/-- Change one latch of seven. -/
def latchSet (v : Vector Byte 7) (port : Port) (b : Byte) : Vector Byte 7 :=
  v.set (portIndex port).val b (portIndex port).isLt

namespace Latches

/-- The latch `INP` reads: `PORT[p]`, or `IN_PORT[p]` (46_io.md R212). -/
def inputOf : Latches → Port → Byte
  | .shared v, port => latchGet v port
  | .split _ i, port => latchGet i port

/-- The latch `OUT` writes, as the host observes it: `PORT[p]`, or `OUT_PORT[p]` (46_io.md R211). -/
def outputOf : Latches → Port → Byte
  | .shared v, port => latchGet v port
  | .split o _, port => latchGet o port

/-- What `OUT` does to the latches (46_io.md R211). -/
def setOutput : Latches → Port → Byte → Latches
  | .shared v, port, b => .shared (latchSet v port b)
  | .split o i, port, b => .split (latchSet o port b) i

/-- What an input event does to the latches (60_exceptions.md R240). -/
def setInput : Latches → Port → Byte → Latches
  | .shared v, port, b => .shared (latchSet v port b)
  | .split o i, port, b => .split o (latchSet i port b)

/-- `IO_LATCH_MODEL`, which is the shape of the latches (log 11). -/
def model : Latches → IoLatchModel
  | .shared _ => .shared
  | .split _ _ => .split

end Latches

namespace State

/-- The latch `INP port` reads. -/
def portIn (s : State) (port : Port) : Byte := s.latches.inputOf port

/-- The latch `OUT port` writes. -/
def portOut (s : State) (port : Port) : Byte := s.latches.outputOf port

/-- Store a byte in the latch `OUT port` writes. -/
def setPortOut (s : State) (port : Port) (b : Byte) : State := { s with latches := s.latches.setOutput port b }

/-- Store a byte in the latch `INP port` reads. -/
def setPortIn (s : State) (port : Port) (b : Byte) : State := { s with latches := s.latches.setInput port b }

/-! ### The cycle clock (60_exceptions.md R232, R233) -/

/-- `Charge(c)`: `CYCLES <- CYCLES + c`. -/
def charge (s : State) (c : Nat) : State := { s with cycles := s.cycles + c }

end State

/-- `floor(cycles × CYCLE_NS)`. -/
def timeAt (cfg : Config) (cycles : Nat) : Nat := cycles * cfg.cycleNs.num / cfg.cycleNs.den

namespace State

/-- `now_ns` (60_exceptions.md R233). -/
def nowNs (s : State) : Nat := timeAt s.cfg s.cycles

/-! ### The interrupt: check, acknowledgement, return -/

/-- The byte `X:P`, `X` in bits 7:4 and `P` in bits 3:0 (10_state.md R26). -/
def savedXP (s : State) : Byte := nibPair s.x s.p

/-- The interrupt check (60_exceptions.md R223): taken exactly when `INT_PENDING = 1` and `IE = 1`. -/
def interruptTaken (s : State) : Bool := s.intPending && s.ie

/-- `InterruptAck()` (60_exceptions.md R224): save `X:P` in `T`, `X <- 2`, `P <- 1`, `IE <- 0`, `INT_PENDING <- 0`,
`IDLE <- 0`, charge `INT_ACK_CYCLES`. The handler starts at the address already in `R[1]`. -/
def interruptAck (s : State) : State :=
  ((((((s.setT s.savedXP).setX 2).setP 1).setIe false).setIntPending false).setIdle false).charge s.cfg.intAckCycles

/-- The return from interrupt that RET and DIS share (60_exceptions.md R226): read the byte at `R[X]`, increment that
`R[X]` (the old `X`), load `X` and `P` from the byte's nibbles, set `IE`. -/
def returnFromInterrupt (s : State) (ie : Bool) : State :=
  let b := s.memRead (s.reg s.x)
  (((s.incReg s.x).setX (hiNib b)).setP (loNib b)).setIe ie

end State

end Sys2Proof.Machine
end

