-- ==== Sys2Proof/Machine/Flags.lean ====
section
/-! DEFINITION. The arithmetic and what it leaves in DF, and the conditions the branches and skips test. Each operation
answers the new `D` and the new `DF`. -/

namespace Sys2Proof.Machine

/-- `Add8(a, b, c)`: the exact sum's low 8 bits and its carry out (44_arithmetic_logic.md R161). -/
def add8 (a b : Byte) (c : Bool) : Byte × Bool :=
  let s := a.toNat + b.toNat + c.toNat
  (BitVec.ofNat 8 (s % 256), s / 256 == 1)

/-- `A - B` as `Add8(A, ~B, c)`: `c = 1` without borrow, `c = DF` with borrow (44_arithmetic_logic.md R161). -/
def sub8 (a b : Byte) (c : Bool) : Byte × Bool := add8 a (~~~b) c

/-- Shift right; `c` enters bit 7, the old bit 0 is the new DF (44_arithmetic_logic.md R180, R181). -/
def shiftRight (d : Byte) (c : Bool) : Byte × Bool :=
  (BitVec.ofNat 8 (c.toNat * 0x80 + d.toNat / 2), d.getLsbD 0)

/-- Shift left; `c` enters bit 0, the old bit 7 is the new DF (44_arithmetic_logic.md R182, R183). -/
def shiftLeft (d : Byte) (c : Bool) : Byte × Bool :=
  (BitVec.ofNat 8 (d.toNat * 2 % 256 + c.toNat), d.getLsbD 7)

namespace State

/-- `D = 0x00`, all 8 bits (44_arithmetic_logic.md R184: there is no zero flag). -/
def dIsZero (s : State) : Bool := s.d == 0

end State

end Sys2Proof.Machine
end

