-- ==== Sys2Proof/Machine/Operands.lean ====
section
/-! DEFINITION. Operand forms: memory through `R[N]` and `R[X]`, the immediate byte, and the three ways an instruction
moves `R[P]`. An instruction sees `R[P]` already past the opcode byte (30_encoding.md R80); the bytes that follow it are
carried by the decoded instruction, so reading one is only the advance of `R[P]` (log 8). -/

namespace Sys2Proof.Machine.State

/-- The memory-indirect operand `MemRead(R[N], 1)`. -/
def memViaN (s : State) (n : Nib) : Byte := s.memRead (s.reg n)

/-- The memory-indirect operand `MemRead(R[X], 1)` (44_arithmetic_logic.md R160). -/
def memViaX (s : State) : Byte := s.memViaN s.x

/-- `MemWrite(R[N], 1, v)`. -/
def storeViaN (s : State) (n : Nib) (v : Byte) : State := s.memWrite (s.reg n) v

/-- `MemWrite(R[X], 1, v)`. -/
def storeViaX (s : State) (v : Byte) : State := s.storeViaN s.x v

/-- What `Imm()` does beside returning the byte (30_encoding.md R81). -/
def afterImm (s : State) : State := s.advancePc

/-- `R[N].0 <- v`: the low byte replaced, the high byte kept. -/
def setRegLo (s : State) (n : Nib) (v : Byte) : State := s.setReg n (bytePair (hiByte (s.reg n)) v)

/-- `R[N].1 <- v`: the high byte replaced, the low byte kept. -/
def setRegHi (s : State) (n : Nib) (v : Byte) : State := s.setReg n (bytePair v (loByte (s.reg n)))

/-- `ShortBranch(cond)` with branch byte `b` (42_short_branch.md R120). -/
def shortBranch (s : State) (cond : Bool) (b : Byte) : State :=
  if cond then s.setPc (bytePair (hiByte s.pc) b) else s.setPc (s.pc + 1)

/-- `LongBranch(cond)` with target `hi:lo` (43_long_branch.md R140). -/
def longBranch (s : State) (cond : Bool) (target : Word) : State :=
  if cond then s.setPc target else s.setPc (s.pc + 2)

/-- `LongSkip(cond)` (43_long_branch.md R141). -/
def longSkip (s : State) (cond : Bool) : State :=
  if cond then s.setPc (s.pc + 2) else s

end Sys2Proof.Machine.State
end

