-- ==== Sys2Proof/Machine/Arith.lean ====
section
/-! DEFINITION. Arithmetic, logic and shifts on D (44_arithmetic_logic.md R160 to R184). A memory form takes
`m = MemRead(R[X], 1)` and leaves `R[X]`; an immediate form takes `m = Imm()`. The logic forms leave DF. -/

namespace Sys2Proof.Machine

/-- OR, R162: `D <- D OR m` with `m = MemRead(R[X], 1)`. -/
def execOr (s : State) : Result := .next (s.setD (s.d ||| s.memViaX))

/-- ORI, R163: `D <- D OR m` with `m = Imm()`. -/
def execOri (b : Byte) (s : State) : Result := .next (s.afterImm.setD (s.d ||| b))

/-- AND, R164: `D <- D AND m` with `m = MemRead(R[X], 1)`. -/
def execAnd (s : State) : Result := .next (s.setD (s.d &&& s.memViaX))

/-- ANI, R165: `D <- D AND m` with `m = Imm()`. -/
def execAni (b : Byte) (s : State) : Result := .next (s.afterImm.setD (s.d &&& b))

/-- XOR, R166: `D <- D XOR m` with `m = MemRead(R[X], 1)`. -/
def execXor (s : State) : Result := .next (s.setD (s.d ^^^ s.memViaX))

/-- XRI, R167: `D <- D XOR m` with `m = Imm()`. -/
def execXri (b : Byte) (s : State) : Result := .next (s.afterImm.setD (s.d ^^^ b))

/-- ADD, R168: `(D, DF) <- Add8(D, m, 0)` with `m = MemRead(R[X], 1)`. -/
def execAdd (s : State) : Result := .next (s.setDDf (add8 s.d s.memViaX false))

/-- ADI, R169: `(D, DF) <- Add8(D, m, 0)` with `m = Imm()`. -/
def execAdi (b : Byte) (s : State) : Result := .next (s.afterImm.setDDf (add8 s.d b false))

/-- ADC, R170: `(D, DF) <- Add8(D, m, DF)` with `m = MemRead(R[X], 1)`. -/
def execAdc (s : State) : Result := .next (s.setDDf (add8 s.d s.memViaX s.df))

/-- ADCI, R171: `(D, DF) <- Add8(D, m, DF)` with `m = Imm()`. -/
def execAdci (b : Byte) (s : State) : Result := .next (s.afterImm.setDDf (add8 s.d b s.df))

/-- SD, R172: `(D, DF) <- Add8(m, ~D, 1)` with `m = MemRead(R[X], 1)`. -/
def execSd (s : State) : Result := .next (s.setDDf (sub8 s.memViaX s.d true))

/-- SDI, R173: `(D, DF) <- Add8(m, ~D, 1)` with `m = Imm()`. -/
def execSdi (b : Byte) (s : State) : Result := .next (s.afterImm.setDDf (sub8 b s.d true))

/-- SDB, R174: `(D, DF) <- Add8(m, ~D, DF)` with `m = MemRead(R[X], 1)`. -/
def execSdb (s : State) : Result := .next (s.setDDf (sub8 s.memViaX s.d s.df))

/-- SDBI, R175: `(D, DF) <- Add8(m, ~D, DF)` with `m = Imm()`. -/
def execSdbi (b : Byte) (s : State) : Result := .next (s.afterImm.setDDf (sub8 b s.d s.df))

/-- SM, R176: `(D, DF) <- Add8(D, ~m, 1)` with `m = MemRead(R[X], 1)`. -/
def execSm (s : State) : Result := .next (s.setDDf (sub8 s.d s.memViaX true))

/-- SMI, R177: `(D, DF) <- Add8(D, ~m, 1)` with `m = Imm()`. -/
def execSmi (b : Byte) (s : State) : Result := .next (s.afterImm.setDDf (sub8 s.d b true))

/-- SMB, R178: `(D, DF) <- Add8(D, ~m, DF)` with `m = MemRead(R[X], 1)`. -/
def execSmb (s : State) : Result := .next (s.setDDf (sub8 s.d s.memViaX s.df))

/-- SMBI, R179: `(D, DF) <- Add8(D, ~m, DF)` with `m = Imm()`. -/
def execSmbi (b : Byte) (s : State) : Result := .next (s.afterImm.setDDf (sub8 s.d b s.df))

/-- SHR, R180: `DF <- D[0]`, `D <- D >> 1`. -/
def execShr (s : State) : Result := .next (s.setDDf (shiftRight s.d false))

/-- SHRC, R181: `DF <- D[0]`, the old DF enters bit 7. -/
def execShrc (s : State) : Result := .next (s.setDDf (shiftRight s.d s.df))

/-- SHL, R182: `DF <- D[7]`, `D <- (D * 2) mod 256`. -/
def execShl (s : State) : Result := .next (s.setDDf (shiftLeft s.d false))

/-- SHLC, R183: `DF <- D[7]`, the old DF enters bit 0. -/
def execShlc (s : State) : Result := .next (s.setDDf (shiftLeft s.d s.df))

end Sys2Proof.Machine
end

