-- ==== Sys2Proof/Machine/Control.lean ====
section
/-! DEFINITION. The control group (45_control.md R190 to R199). -/

namespace Sys2Proof.Machine

/-- IDL, R190: `IDLE <- 1`. The idle passes that follow are iterations of the loop. -/
def execIdl (s : State) : Result := .next (s.setIdle true)

/-- SEP, R191: `P <- N`. The old program counter keeps its advanced value. -/
def execSep (n : Nib) (s : State) : Result := .next (s.setP n)

/-- SEX, R192: `X <- N`. -/
def execSex (n : Nib) (s : State) : Result := .next (s.setX n)

/-- SEQ, R193: `Q <- 1`. -/
def execSeq (s : State) : Result := .next (s.setQ true)

/-- REQ, R194: `Q <- 0`. -/
def execReq (s : State) : Result := .next (s.setQ false)

/-- SAV, R195: `MemWrite(R[X], 1, T)`; `R[X]` does not move (90_conflicts.md C13). -/
def execSav (s : State) : Result := .next (s.storeViaX s.t)

/-- MARK, R196: `T <- X:P`, `MemWrite(R[2], 1, T)`, `X <- P`, `R[2] <- R[2] - 1`. -/
def execMark (s : State) : Result :=
  .next ((((s.setT s.savedXP).storeViaN 2 s.savedXP).setX s.p).decReg 2)

/-- RET, R197: the return from interrupt with `IE <- 1`. -/
def execRet (s : State) : Result := .next (s.returnFromInterrupt true)

/-- DIS, R198: the return from interrupt with `IE <- 0`, whatever `IE` was (90_conflicts.md C12). -/
def execDis (s : State) : Result := .next (s.returnFromInterrupt false)

/-- The reserved opcode 0x68, R199: nothing, or `IDLE <- 1`, by `OP68_MODE`. -/
def execReserved68 (s : State) : Result :=
  match s.cfg.op68Mode with
  | .nop => .next s
  | .idle => .next (s.setIdle true)

end Sys2Proof.Machine
end

