-- ==== Sys2Proof/Machine/InOut.lean ====
section
/-! DEFINITION. Input and output (46_io.md R210 to R213). -/

namespace Sys2Proof.Machine

/-- OUT, R211: the memory byte at `R[X]` (never `D`, 90_conflicts.md C3) to the port's latch, then
`R[X] <- R[X] + 1`. -/
def execOut (port : Port) (s : State) : Result := .next ((s.setPortOut port s.memViaX).incReg s.x)

/-- INP, R212: the port's latch to memory at `R[X]` and to `D`; `R[X]` does not move. -/
def execInp (port : Port) (s : State) : Result :=
  .next ((s.storeViaX (s.portIn port)).setD (s.portIn port))

end Sys2Proof.Machine
end

