-- ==== Sys2Proof/Machine/LongBranch.lean ====
section
/-! DEFINITION. Long branches, long skips and NOP (43_long_branch.md R140 to R157). A long branch is `LongBranch(cond)`
with its two target bytes; a long skip is `LongSkip(cond)` and has no operand bytes. -/

namespace Sys2Proof.Machine

/-- LBR, R142: `LongBranch(1)`. -/
def execLbr (target : Word) (s : State) : Result := .next (s.longBranch true target)

/-- LBQ, R143: `LongBranch(Q = 1)`. -/
def execLbq (target : Word) (s : State) : Result := .next (s.longBranch s.q target)

/-- LBZ, R144: `LongBranch(D = 0x00)`. -/
def execLbz (target : Word) (s : State) : Result := .next (s.longBranch s.dIsZero target)

/-- LBDF, R145: `LongBranch(DF = 1)`. -/
def execLbdf (target : Word) (s : State) : Result := .next (s.longBranch s.df target)

/-- NOP, R146: "nothing. Only the fetch's advance of `R[P]` and `Charge(3)` take effect." -/
def execNop (s : State) : Result := .next s

/-- LSNQ, R147: `LongSkip(Q = 0)`. -/
def execLsnq (s : State) : Result := .next (s.longSkip (!s.q))

/-- LSNZ, R148: `LongSkip(D ≠ 0x00)`. -/
def execLsnz (s : State) : Result := .next (s.longSkip (!s.dIsZero))

/-- LSNF, R149: `LongSkip(DF = 0)`. -/
def execLsnf (s : State) : Result := .next (s.longSkip (!s.df))

/-- LSKP, R150: `LongSkip(1)`. -/
def execLskp (s : State) : Result := .next (s.longSkip true)

/-- LBNQ, R151: `LongBranch(Q = 0)`. -/
def execLbnq (target : Word) (s : State) : Result := .next (s.longBranch (!s.q) target)

/-- LBNZ, R152: `LongBranch(D ≠ 0x00)`. -/
def execLbnz (target : Word) (s : State) : Result := .next (s.longBranch (!s.dIsZero) target)

/-- LBNF, R153: `LongBranch(DF = 0)`. -/
def execLbnf (target : Word) (s : State) : Result := .next (s.longBranch (!s.df) target)

/-- LSIE, R154: `LongSkip(IE = 1)`. -/
def execLsie (s : State) : Result := .next (s.longSkip s.ie)

/-- LSQ, R155: `LongSkip(Q = 1)`. -/
def execLsq (s : State) : Result := .next (s.longSkip s.q)

/-- LSZ, R156: `LongSkip(D = 0x00)`. -/
def execLsz (s : State) : Result := .next (s.longSkip s.dIsZero)

/-- LSDF, R157: `LongSkip(DF = 1)`. -/
def execLsdf (s : State) : Result := .next (s.longSkip s.df)

end Sys2Proof.Machine
end

