-- ==== Sys2Proof/Machine/ShortBranch.lean ====
section
/-! DEFINITION. Short branches and the short skip (42_short_branch.md R120 to R137). Each is `ShortBranch(cond)` for its
own condition; the target stays in the page of the branch byte. -/

namespace Sys2Proof.Machine

/-- BR, R121: `ShortBranch(1)`. -/
def execBr (b : Byte) (s : State) : Result := .next (s.shortBranch true b)

/-- BQ, R122: `ShortBranch(Q = 1)`. -/
def execBq (b : Byte) (s : State) : Result := .next (s.shortBranch s.q b)

/-- BZ, R123: `ShortBranch(D = 0x00)`. -/
def execBz (b : Byte) (s : State) : Result := .next (s.shortBranch s.dIsZero b)

/-- BDF, R124: `ShortBranch(DF = 1)`. -/
def execBdf (b : Byte) (s : State) : Result := .next (s.shortBranch s.df b)

/-- B1, R125: `ShortBranch(EF[1] = 1)`. -/
def execB1 (b : Byte) (s : State) : Result := .next (s.shortBranch (s.efOf .ef1) b)

/-- B2, R126: `ShortBranch(EF[2] = 1)`. -/
def execB2 (b : Byte) (s : State) : Result := .next (s.shortBranch (s.efOf .ef2) b)

/-- B3, R127: `ShortBranch(EF[3] = 1)`. -/
def execB3 (b : Byte) (s : State) : Result := .next (s.shortBranch (s.efOf .ef3) b)

/-- B4, R128: `ShortBranch(EF[4] = 1)`. -/
def execB4 (b : Byte) (s : State) : Result := .next (s.shortBranch (s.efOf .ef4) b)

/-- SKP, R129: `ShortBranch(0)`. -/
def execSkp (b : Byte) (s : State) : Result := .next (s.shortBranch false b)

/-- BNQ, R130: `ShortBranch(Q = 0)`. -/
def execBnq (b : Byte) (s : State) : Result := .next (s.shortBranch (!s.q) b)

/-- BNZ, R131: `ShortBranch(D ≠ 0x00)`. -/
def execBnz (b : Byte) (s : State) : Result := .next (s.shortBranch (!s.dIsZero) b)

/-- BNF, R132: `ShortBranch(DF = 0)`. -/
def execBnf (b : Byte) (s : State) : Result := .next (s.shortBranch (!s.df) b)

/-- BN1, R133: `ShortBranch(EF[1] = 0)`. -/
def execBn1 (b : Byte) (s : State) : Result := .next (s.shortBranch (!s.efOf .ef1) b)

/-- BN2, R134: `ShortBranch(EF[2] = 0)`. -/
def execBn2 (b : Byte) (s : State) : Result := .next (s.shortBranch (!s.efOf .ef2) b)

/-- BN3, R135: `ShortBranch(EF[3] = 0)`. -/
def execBn3 (b : Byte) (s : State) : Result := .next (s.shortBranch (!s.efOf .ef3) b)

/-- BN4, R136: `ShortBranch(EF[4] = 0)`. -/
def execBn4 (b : Byte) (s : State) : Result := .next (s.shortBranch (!s.efOf .ef4) b)

end Sys2Proof.Machine
end

