-- ==== Sys2Proof/Machine/Transfer.lean ====
section
/-! DEFINITION. Register load, store, increment and decrement (41_register_transfer.md R100 to R114). None touches DF, Q,
IE, T, EF or a port. -/

namespace Sys2Proof.Machine

/-- LDN, R101: `D <- MemRead(R[N], 1)`. -/
def execLdn (n : Nib) (s : State) : Result := .next (s.setD (s.memViaN n))

/-- LDA, R102: `D <- MemRead(R[N], 1)`, then `R[N] <- R[N] + 1`. -/
def execLda (n : Nib) (s : State) : Result := .next ((s.setD (s.memViaN n)).incReg n)

/-- LDX, R103: `D <- MemRead(R[X], 1)`. -/
def execLdx (s : State) : Result := .next (s.setD s.memViaX)

/-- LDXA, R104: `D <- MemRead(R[X], 1)`, then `R[X] <- R[X] + 1`. -/
def execLdxa (s : State) : Result := .next ((s.setD s.memViaX).incReg s.x)

/-- LDI, R105: `D <- Imm()`. -/
def execLdi (b : Byte) (s : State) : Result := .next (s.afterImm.setD b)

/-- STR, R106: `MemWrite(R[N], 1, D)`. -/
def execStr (n : Nib) (s : State) : Result := .next (s.storeViaN n s.d)

/-- STXD, R107: `MemWrite(R[X], 1, D)`, then `R[X] <- R[X] - 1`. -/
def execStxd (s : State) : Result := .next ((s.storeViaX s.d).decReg s.x)

/-- IRX, R108: `R[X] <- R[X] + 1`. -/
def execIrx (s : State) : Result := .next (s.incReg s.x)

/-- INC, R109: `R[N] <- R[N] + 1`. -/
def execInc (n : Nib) (s : State) : Result := .next (s.incReg n)

/-- DEC, R110: `R[N] <- R[N] - 1`. -/
def execDec (n : Nib) (s : State) : Result := .next (s.decReg n)

/-- GLO, R111: `D <- R[N][7:0]`. -/
def execGlo (n : Nib) (s : State) : Result := .next (s.setD (loByte (s.reg n)))

/-- GHI, R112: `D <- R[N][15:8]`. -/
def execGhi (n : Nib) (s : State) : Result := .next (s.setD (hiByte (s.reg n)))

/-- PLO, R113: `R[N] <- R[N][15:8] : D`. -/
def execPlo (n : Nib) (s : State) : Result := .next (s.setRegLo n s.d)

/-- PHI, R114: `R[N] <- D : R[N][7:0]`. -/
def execPhi (n : Nib) (s : State) : Result := .next (s.setRegHi n s.d)

end Sys2Proof.Machine
end

