-- ==== Sys2Proof/Machine/Dispatch.lean ====
section
/-! DEFINITION. One instruction's effect on the state, one arm per constructor. It runs on the state after the fetch of
the opcode byte (30_encoding.md R80); the charge and the events are the loop's (Machine/Loop.lean). -/

namespace Sys2Proof.Machine

def exec (i : Instr) (s : State) : Host.Outcome State Fault Refusal :=
  match i with
  -- 41_register_transfer.md: register load, store, increment and decrement
  | .ldn n => Sys2Proof.Machine.execLdn n s
  | .lda n => Sys2Proof.Machine.execLda n s
  | .ldx => Sys2Proof.Machine.execLdx s
  | .ldxa => Sys2Proof.Machine.execLdxa s
  | .ldi b => Sys2Proof.Machine.execLdi b s
  | .str n => Sys2Proof.Machine.execStr n s
  | .stxd => Sys2Proof.Machine.execStxd s
  | .irx => Sys2Proof.Machine.execIrx s
  | .inc n => Sys2Proof.Machine.execInc n s
  | .dec n => Sys2Proof.Machine.execDec n s
  | .glo n => Sys2Proof.Machine.execGlo n s
  | .ghi n => Sys2Proof.Machine.execGhi n s
  | .plo n => Sys2Proof.Machine.execPlo n s
  | .phi n => Sys2Proof.Machine.execPhi n s
  -- 42_short_branch.md: short branches and the short skip
  | .br b => Sys2Proof.Machine.execBr b s
  | .bq b => Sys2Proof.Machine.execBq b s
  | .bz b => Sys2Proof.Machine.execBz b s
  | .bdf b => Sys2Proof.Machine.execBdf b s
  | .b1 b => Sys2Proof.Machine.execB1 b s
  | .b2 b => Sys2Proof.Machine.execB2 b s
  | .b3 b => Sys2Proof.Machine.execB3 b s
  | .b4 b => Sys2Proof.Machine.execB4 b s
  | .skp b => Sys2Proof.Machine.execSkp b s
  | .bnq b => Sys2Proof.Machine.execBnq b s
  | .bnz b => Sys2Proof.Machine.execBnz b s
  | .bnf b => Sys2Proof.Machine.execBnf b s
  | .bn1 b => Sys2Proof.Machine.execBn1 b s
  | .bn2 b => Sys2Proof.Machine.execBn2 b s
  | .bn3 b => Sys2Proof.Machine.execBn3 b s
  | .bn4 b => Sys2Proof.Machine.execBn4 b s
  -- 43_long_branch.md: long branches, long skips and NOP
  | .lbr target => Sys2Proof.Machine.execLbr target s
  | .lbq target => Sys2Proof.Machine.execLbq target s
  | .lbz target => Sys2Proof.Machine.execLbz target s
  | .lbdf target => Sys2Proof.Machine.execLbdf target s
  | .nop => Sys2Proof.Machine.execNop s
  | .lsnq => Sys2Proof.Machine.execLsnq s
  | .lsnz => Sys2Proof.Machine.execLsnz s
  | .lsnf => Sys2Proof.Machine.execLsnf s
  | .lskp => Sys2Proof.Machine.execLskp s
  | .lbnq target => Sys2Proof.Machine.execLbnq target s
  | .lbnz target => Sys2Proof.Machine.execLbnz target s
  | .lbnf target => Sys2Proof.Machine.execLbnf target s
  | .lsie => Sys2Proof.Machine.execLsie s
  | .lsq => Sys2Proof.Machine.execLsq s
  | .lsz => Sys2Proof.Machine.execLsz s
  | .lsdf => Sys2Proof.Machine.execLsdf s
  -- 44_arithmetic_logic.md: arithmetic, logic and shifts on D
  | .or => Sys2Proof.Machine.execOr s
  | .ori b => Sys2Proof.Machine.execOri b s
  | .and => Sys2Proof.Machine.execAnd s
  | .ani b => Sys2Proof.Machine.execAni b s
  | .xor => Sys2Proof.Machine.execXor s
  | .xri b => Sys2Proof.Machine.execXri b s
  | .add => Sys2Proof.Machine.execAdd s
  | .adi b => Sys2Proof.Machine.execAdi b s
  | .adc => Sys2Proof.Machine.execAdc s
  | .adci b => Sys2Proof.Machine.execAdci b s
  | .sd => Sys2Proof.Machine.execSd s
  | .sdi b => Sys2Proof.Machine.execSdi b s
  | .sdb => Sys2Proof.Machine.execSdb s
  | .sdbi b => Sys2Proof.Machine.execSdbi b s
  | .sm => Sys2Proof.Machine.execSm s
  | .smi b => Sys2Proof.Machine.execSmi b s
  | .smb => Sys2Proof.Machine.execSmb s
  | .smbi b => Sys2Proof.Machine.execSmbi b s
  | .shr => Sys2Proof.Machine.execShr s
  | .shrc => Sys2Proof.Machine.execShrc s
  | .shl => Sys2Proof.Machine.execShl s
  | .shlc => Sys2Proof.Machine.execShlc s
  -- 45_control.md: the control group
  | .idl => Sys2Proof.Machine.execIdl s
  | .sep n => Sys2Proof.Machine.execSep n s
  | .sex n => Sys2Proof.Machine.execSex n s
  | .seq => Sys2Proof.Machine.execSeq s
  | .req => Sys2Proof.Machine.execReq s
  | .sav => Sys2Proof.Machine.execSav s
  | .mark => Sys2Proof.Machine.execMark s
  | .ret => Sys2Proof.Machine.execRet s
  | .dis => Sys2Proof.Machine.execDis s
  | .reserved68 => Sys2Proof.Machine.execReserved68 s
  -- 46_io.md: input and output
  | .out port => Sys2Proof.Machine.execOut port s
  | .inp port => Sys2Proof.Machine.execInp port s

end Sys2Proof.Machine
end

