-- ==== Sys2Proof/Machine/Scheduler.lean ====
section
/-! DEFINITION. The event scheduler (60_exceptions.md R236 to R241) and the end of an iteration. -/

namespace Sys2Proof.Machine

/-- Place an event after every queued event with a time at or below its own and before any later one: a stable sort's
place for an event appended to the log (92_eei_decisions.md D17). -/
def insertEvent (e : Event) : List Event → List Event
  | [] => [e]
  | f :: q => if e.time < f.time then e :: f :: q else f :: insertEvent e q

/-- The stable sort of a log's events by time, ties in log order (60_exceptions.md R236). -/
def sortEvents (log : List Event) : List Event := log.foldl (fun q e => insertEvent e q) []

namespace State

/-- The effect of one event (60_exceptions.md R238, R239, R240). -/
def applyEvent (s : State) (e : Event) : State :=
  match e.kind with
  | .flag line value => s.setEf line value
  | .interrupt => s.setIntPending true
  | .input port value => s.setPortIn port value

/-- Apply and remove the events at the head of `q` whose time is at or before `now`; the rest is the new queue. -/
def applyDue (now : Nat) : List Event → State → State
  | [], s => s.setQueue []
  | e :: q, s => if e.time.val ≤ now then applyDue now q (s.applyEvent e) else s.setQueue (e :: q)

/-- `ApplyEvents()` (60_exceptions.md R237). -/
def applyEvents (s : State) : State := applyDue s.nowNs s.queue s

/-- The next event to be applied, for display (60_exceptions.md R244). -/
def nextEvent (s : State) : Option Event := s.queue.head?

/-- The last phase of an iteration, after its charge: apply the due events. A run whose `now_ns` passes 2^64 - 1 is
outside the spec and has no step (93_implementation_defined.md U14, log 7). -/
def endIteration (s : State) : Result :=
  if s.nowNs < 2 ^ 64 then .next s.applyEvents else .refused .timeBeyond64Bits

end State

end Sys2Proof.Machine
end

