-- ==== Sys2Proof/Machine/Loop.lean ====
section
/-! DEFINITION. The execution loop (60_exceptions.md R229) and the fetch (30_encoding.md R80). -/

namespace Sys2Proof.Machine

namespace State

/-- The opcode byte at `R[P]`. -/
def opcodeByte (s : State) : Byte := s.memRead s.pc

/-- The bytes an instruction at `R[P]` may take: the opcode and the two after it, addresses modulo 65536
(20_memory.md R52). -/
def fetchBytes (s : State) : List Byte := [s.opcodeByte, s.memRead (s.pc + 1), s.memRead (s.pc + 2)]

/-- The instruction at `R[P]`. -/
def fetchInstr (s : State) : Instr := decodeOp s.opcodeByte (s.memRead (s.pc + 1)) (s.memRead (s.pc + 2))

/-- The state an instruction's rule sees: `R[P]` past the opcode byte (30_encoding.md R80). -/
def afterFetch (s : State) : State := s.advancePc

/-- An idle pass: no fetch, charge `IDLE_PASS_CYCLES` (60_exceptions.md R229). -/
def idlePass (s : State) : State := s.charge s.cfg.idlePassCycles

/-- The machine cycles the next iteration costs (60_exceptions.md R235). -/
def nextCost (s : State) : Nat :=
  if s.interruptTaken then s.cfg.intAckCycles
  else if s.idle then s.cfg.idlePassCycles
  else opcodeCost s.opcodeByte

/-- "time until next instruction boundary": the time the next iteration takes (60_exceptions.md R235). -/
def timeToBoundary (s : State) : Nat := timeAt s.cfg (s.cycles + s.nextCost) - s.nowNs

end State

/-- Charge an instruction's cost and end the iteration; a fault or refusal of the instruction is the iteration's. -/
def finishInstr (cost : Nat) : Result → Result
  | .next t => (t.charge cost).endIteration
  | .fault f => .fault f
  | .refused r => .refused r

/-- `Iterate()` (60_exceptions.md R229), possible only while `RUN = Running` (R230). -/
def iterate (s : State) : Result :=
  match s.run with
  | .halted => .fault .halted
  | .running =>
    if s.interruptTaken then s.interruptAck.endIteration
    else if s.idle then s.idlePass.endIteration
    else finishInstr (opcodeCost s.opcodeByte) (exec s.fetchInstr s.afterFetch)

/-- Store instruction bytes at `R[P]` and after, the last first, so that where cells alias (a tiny `MEM_SIZE`) the opcode
byte is the one that stands. -/
def placeBytes (s : State) (a : Word) : List Byte → State
  | [] => s
  | b :: bs => (placeBytes s (a + 1) bs).memWrite a b

/-- Make the next iteration fetch these bytes: they stand at `R[P]`, no acknowledgement comes first, and the machine is
neither idle nor halted. -/
def readyToFetch (s : State) (bytes : List Byte) : State :=
  let t := placeBytes s s.pc bytes
  { t with intPending := false, idle := false, run := .running }

end Sys2Proof.Machine
end

