-- ==== Sys2Proof/Machine/Step.lean ====
section
/-! DEFINITION. One step of the machine: one iteration of the execution loop (60_exceptions.md R229). -/

namespace Sys2Proof.Machine

/-- One step: one `Iterate()`. -/
def step (s : State) : Host.Outcome State Fault Refusal := iterate s

/-- The state in which the next step fetches and runs the instruction of `w`, whose bits are numbered as
spec/opcode_table.json numbers them. It stands for the load of an image (20_memory.md R55, log 9). -/
def State.withFetchWord (s : State) (nbits w : Nat) : State := readyToFetch s (tableBytes nbits w)

end Sys2Proof.Machine
end

