-- ==== Sys2Proof/Machine/HostPort.lean ====
section
/-! DEFINITION. The host's inspection and control between iterations (60_exceptions.md R244 to R246). Values arrive as
plain numbers, so that one outside its range can be written and refused. -/

namespace Sys2Proof.Machine

/-- A register, memory or latch poke, or the clearing of IDLE (60_exceptions.md R245, 92_eei_decisions.md D21). -/
inductive Poke
  | d (v : Nat)
  | df (v : Nat)
  | r (i v : Nat)
  | p (v : Nat)
  | x (v : Nat)
  | t (v : Nat)
  | ie (v : Nat)
  | q (v : Nat)
  | ef (line v : Nat)
  /-- `PORT[port]`, under `shared`. -/
  | port (port v : Nat)
  /-- `OUT_PORT[port]`, under `split`. -/
  | outPort (port v : Nat)
  /-- `IN_PORT[port]`, under `split`. -/
  | inPort (port v : Nat)
  | mem (a v : Nat)
  | clearIdle
deriving DecidableEq, Repr

/-- The kind of an event the host writes, unchecked. -/
inductive RawKind
  | flag (line value : Nat)
  | interrupt
  | input (port value : Nat)
deriving DecidableEq, Repr

/-- An event the host writes, unchecked. -/
structure RawEvent where
  time : Nat
  kind : RawKind
deriving DecidableEq, Repr

/-- What the host may do between iterations (60_exceptions.md R245). -/
inductive HostCommand
  | stepOne
  | poke (poke : Poke)
  | inject (event : RawEvent)
  | stop
deriving DecidableEq, Repr

/-- A value of a width, or none if it is out of range. -/
def fitBits (w v : Nat) : Option (BitVec w) := if v < 2 ^ w then some (BitVec.ofNat w v) else none

/-- A bit, or none if it is out of range. -/
def fitBit (v : Nat) : Option Bool := if v < 2 then some (v == 1) else none

/-- The next state where the value fits; refused otherwise. -/
def pokeWith {α : Type} (value : Option α) (set : α → State) : Result :=
  match value with
  | some v => .next (set v)
  | none => .refused .outOfRange

/-- As `pokeWith`, for an indexed piece of state: both numbers must be in range. -/
def pokeAt {α β : Type} (index : Option α) (value : Option β) (set : α → β → State) : Result :=
  match index, value with
  | some i, some v => .next (set i v)
  | _, _ => .refused .outOfRange

/-- A poke of a latch, for a latch model that has it. -/
def pokeLatch (s : State) (wanted : IoLatchModel) (port v : Nat) (set : Port → Byte → State) : Result :=
  if s.latches.model = wanted then pokeAt (Port.ofNumber port) (fitBits 8 v) set else .refused .noSuchLatch

/-- "direct register/memory poke" (60_exceptions.md R245): no poke changes `CYCLES`, `EQ` or `INT_PENDING`. -/
def hostPoke (s : State) : Poke → Result
  | .d v => pokeWith (fitBits 8 v) s.setD
  | .df v => pokeWith (fitBit v) fun b => { s with df := b }
  | .r i v => pokeAt (fitBits 4 i) (fitBits 16 v) s.setReg
  | .p v => pokeWith (fitBits 4 v) s.setP
  | .x v => pokeWith (fitBits 4 v) s.setX
  | .t v => pokeWith (fitBits 8 v) s.setT
  | .ie v => pokeWith (fitBit v) s.setIe
  | .q v => pokeWith (fitBit v) s.setQ
  | .ef line v => pokeAt (EfLine.ofNumber line) (fitBit v) s.setEf
  | .port port v => pokeLatch s .shared port v s.setPortOut
  | .outPort port v => pokeLatch s .split port v s.setPortOut
  | .inPort port v => pokeLatch s .split port v s.setPortIn
  | .mem a v => pokeAt (fitBits 16 a) (fitBits 8 v) s.memWrite
  | .clearIdle => .next (s.setIdle false)

/-- The event a host's numbers stand for, or none if one is out of range. -/
def RawEvent.checked (e : RawEvent) : Option Event :=
  if h : e.time < 2 ^ 64 then
    match e.kind with
    | .flag line value =>
      match EfLine.ofNumber line, fitBit value with
      | some l, some v => some ⟨⟨e.time, h⟩, .flag l v⟩
      | _, _ => none
    | .interrupt => some ⟨⟨e.time, h⟩, .interrupt⟩
    | .input port value =>
      match Port.ofNumber port, fitBits 8 value with
      | some p, some v => some ⟨⟨e.time, h⟩, .input p v⟩
      | _, _ => none
  else none

/-- "manual event injection" (60_exceptions.md R245): the event takes its place in the queue, and nothing else changes. -/
def hostInject (s : State) (e : RawEvent) : Result :=
  pokeWith e.checked fun ev => s.setQueue (insertEvent ev s.queue)

/-- The external stop (60_exceptions.md R230). -/
def hostStop (s : State) : State := { s with run := .halted }

/-- One command of the host. -/
def hostStep (s : State) : HostCommand → Result
  | .stepOne => step s
  | .poke poke => hostPoke s poke
  | .inject event => hostInject s event
  | .stop => .next (hostStop s)

/-- "run-until-condition": repeated iterations, the condition tested at each boundary, at most `fuel` of them. -/
def runUntil (cond : State → Bool) : Nat → State → Result
  | 0, s => .next s
  | fuel + 1, s =>
    if cond s then .next s
    else
      match step s with
      | .next t => runUntil cond fuel t
      | .fault f => .fault f
      | .refused r => .refused r

/-- "Memory window reads" (60_exceptions.md R244): `count` bytes from an address on, addresses modulo 65536. -/
def memWindow (s : State) (a : Word) : Nat → List Byte
  | 0 => []
  | count + 1 => s.memRead a :: memWindow s (a + 1) count

end Sys2Proof.Machine
end

