-- ==== Sys2Proof/Machine/EventLog.lean ====
section
/-! DEFINITION. The event log's text (60_exceptions.md R242, R243): one event a line, comma-separated fields, no header.
Lexical choices: 92_eei_decisions.md D22 and log 5. -/

namespace Sys2Proof.Machine

/-- What is wrong with a line (60_exceptions.md R243). -/
inductive LineProblem
  /-- Too few or too many fields for its kind. -/
  | fieldCount
  /-- The second field is not `flag`, `int` or `input`. -/
  | unknownKind
  /-- The time is not a decimal that fits in 64 bits. -/
  | badTime
  /-- The flag line is not `ef1` to `ef4`. -/
  | badLine
  /-- The flag value is not `0` or `1`. -/
  | badFlagValue
  /-- The port is not `io1` to `io7`. -/
  | badPort
  /-- The byte is not two hex digits. -/
  | badByte
deriving DecidableEq, Repr

/-- Cut a text at every separator; a text with none is one piece. -/
def splitAtChar (sep : Char) : List Char → List (List Char)
  | [] => [[]]
  | c :: cs =>
    if c = sep then [] :: splitAtChar sep cs
    else
      match splitAtChar sep cs with
      | [] => [[c]]
      | piece :: pieces => (c :: piece) :: pieces

/-- The value of a decimal digit. -/
def decimalDigit (c : Char) : Option Nat :=
  if 48 ≤ c.toNat ∧ c.toNat ≤ 57 then some (c.toNat - 48) else none

/-- The value of a hex digit, of either case. -/
def hexDigit (c : Char) : Option Nat :=
  if 48 ≤ c.toNat ∧ c.toNat ≤ 57 then some (c.toNat - 48)
  else if 65 ≤ c.toNat ∧ c.toNat ≤ 70 then some (c.toNat - 55)
  else if 97 ≤ c.toNat ∧ c.toNat ≤ 102 then some (c.toNat - 87)
  else none

/-- The decimal digits that follow an already read value. -/
def decimalFrom (value : Nat) : List Char → Option Nat
  | [] => some value
  | c :: cs =>
    match decimalDigit c with
    | some k => decimalFrom (value * 10 + k) cs
    | none => none

/-- `time_ns`: one or more decimal digits whose value fits in 64 bits. -/
def parseTime : List Char → Option (Fin (2 ^ 64))
  | [] => none
  | c :: cs =>
    match decimalFrom 0 (c :: cs) with
    | some v => if h : v < 2 ^ 64 then some ⟨v, h⟩ else none
    | none => none

/-- `ef1` to `ef4`. -/
def parseEfLine : List Char → Option EfLine
  | ['e', 'f', '1'] => some .ef1
  | ['e', 'f', '2'] => some .ef2
  | ['e', 'f', '3'] => some .ef3
  | ['e', 'f', '4'] => some .ef4
  | _ => none

/-- `io1` to `io7`. -/
def parsePort : List Char → Option Port
  | ['i', 'o', '1'] => some .p1
  | ['i', 'o', '2'] => some .p2
  | ['i', 'o', '3'] => some .p3
  | ['i', 'o', '4'] => some .p4
  | ['i', 'o', '5'] => some .p5
  | ['i', 'o', '6'] => some .p6
  | ['i', 'o', '7'] => some .p7
  | _ => none

/-- `0` or `1`. -/
def parseFlagValue : List Char → Option Bool
  | ['0'] => some false
  | ['1'] => some true
  | _ => none

/-- Two hex digits. -/
def parseHexByte : List Char → Option Byte
  | [h, l] =>
    match hexDigit h, hexDigit l with
    | some vh, some vl => some (BitVec.ofNat 8 (vh * 16 + vl))
    | _, _ => none
  | _ => none

/-- The fields after the time and the kind `flag`. -/
def parseFlag (time : Fin (2 ^ 64)) : List (List Char) → Checked LineProblem Event
  | [line, value] =>
    match parseEfLine line, parseFlagValue value with
    | some l, some v => .ok ⟨time, .flag l v⟩
    | none, _ => .bad .badLine
    | some _, none => .bad .badFlagValue
  | _ => .bad .fieldCount

/-- The fields after the time and the kind `int`: none. -/
def parseInt (time : Fin (2 ^ 64)) : List (List Char) → Checked LineProblem Event
  | [] => .ok ⟨time, .interrupt⟩
  | _ => .bad .fieldCount

/-- The fields after the time and the kind `input`. -/
def parseInput (time : Fin (2 ^ 64)) : List (List Char) → Checked LineProblem Event
  | [port, byte] =>
    match parsePort port, parseHexByte byte with
    | some p, some b => .ok ⟨time, .input p b⟩
    | none, _ => .bad .badPort
    | some _, none => .bad .badByte
  | _ => .bad .fieldCount

/-- One line's fields. -/
def parseFields : List (List Char) → Checked LineProblem Event
  | time :: kind :: fields =>
    match parseTime time with
    | none => .bad .badTime
    | some t =>
      if kind = ['f', 'l', 'a', 'g'] then parseFlag t fields
      else if kind = ['i', 'n', 't'] then parseInt t fields
      else if kind = ['i', 'n', 'p', 'u', 't'] then parseInput t fields
      else .bad .unknownKind
  | _ => .bad .fieldCount

/-- One line of the log. -/
def parseLine (line : List Char) : Checked LineProblem Event := parseFields (splitAtChar ',' line)

/-- "an empty last line is allowed" (60_exceptions.md R242). The spec does not say what an empty last line is. DESIGN
CHOICE (unsafe, log 5): it is the empty piece after a text's last line feed, which is dropped, and nothing else is. So the
empty text and one that ends with a line feed are accepted, and one whose last line feed itself ends an empty line (a line
feed alone, or two at the end) is refused as malformed. -/
def dropEmptyLast : List (List Char) → List (List Char)
  | [] => []
  | [[]] => []
  | line :: lines => line :: dropEmptyLast lines

/-- The log's lines, numbered from `number`; the first malformed one is reported with its number. -/
def parseLines (number : Nat) : List (List Char) → Checked (Nat × LineProblem) (List Event)
  | [] => .ok []
  | line :: lines =>
    match parseLine line, parseLines (number + 1) lines with
    | .ok e, .ok es => .ok (e :: es)
    | .bad why, _ => .bad (number, why)
    | .ok _, .bad e => .bad e

/-- The events of a log's text, in log order; lines are numbered from 1. -/
def parseLog (text : String) : Checked (Nat × LineProblem) (List Event) :=
  parseLines 1 (dropEmptyLast (splitAtChar '\n' text.toList))

end Sys2Proof.Machine
end

