-- ==== Sys2Proof/Machine/Launch.lean ====
section
/-! DEFINITION. Construction of the launch state from the configuration surface, or the configuration error that refuses
it (70_reset_and_hazards.md R270 to R274). -/

namespace Sys2Proof.Machine

/-- Why a configuration builds no launch state (70_reset_and_hazards.md R274), with the offending line or field. -/
inductive ConfigError
  /-- "the event log has a malformed line". -/
  | malformedLog (line : Nat) (why : LineProblem)
  /-- "image too large for address space". -/
  | imageTooLarge
  /-- "invalid initial register value", with the parameter's name. -/
  | invalidInitial (parameter : String)
  /-- `MEM_SIZE` outside 1..65536. -/
  | memSize
  /-- Both or neither of `CYCLE_NS` and `CLOCK_HZ`. -/
  | cycleLengthNotOne
  /-- The one of `CYCLE_NS` and `CLOCK_HZ` given is not positive. -/
  | cycleLengthNotPositive
  /-- `INT_ACK_CYCLES` or `IDLE_PASS_CYCLES` is 0. -/
  | costZero (parameter : String)
deriving DecidableEq, Repr

/-- A positive rational. -/
def ratioPositive (c : Ratio) : Bool := 0 < c.num && 0 < c.den

/-- The parameters a machine may run under (00_scope.md R6, 70_reset_and_hazards.md R274). -/
def configValid (c : Config) : Bool :=
  1 ≤ c.memSize && c.memSize ≤ 65536 && ratioPositive c.cycleNs && 1 ≤ c.intAckCycles && 1 ≤ c.idlePassCycles

/-- `CYCLE_NS`: given, or `8 × 10^9 / CLOCK_HZ`; exactly one is supplied (60_exceptions.md R234). -/
def cycleLength (cycleNs clockHz : Option Ratio) : Checked ConfigError Ratio :=
  match cycleNs, clockHz with
  | some c, none => if ratioPositive c then .ok c else .bad .cycleLengthNotPositive
  | none, some h => if ratioPositive h then .ok ⟨8000000000 * h.den, h.num⟩ else .bad .cycleLengthNotPositive
  | _, _ => .bad .cycleLengthNotOne

/-- A 16-bit initial value. -/
def initialWord (parameter : String) (v : Nat) : Checked ConfigError Word :=
  if v < 65536 then .ok (BitVec.ofNat 16 v) else .bad (.invalidInitial parameter)

/-- A 1-bit initial value. -/
def initialBit (parameter : String) (v : Nat) : Checked ConfigError Bool :=
  if v < 2 then .ok (v == 1) else .bad (.invalidInitial parameter)

/-- The four initial flags. -/
def initialEf (v : Vector Nat 4) : Checked ConfigError (Vector Bool 4) :=
  match initialBit "INIT_EF[1]" v[0], initialBit "INIT_EF[2]" v[1], initialBit "INIT_EF[3]" v[2],
      initialBit "INIT_EF[4]" v[3] with
  | .ok a, .ok b, .ok c, .ok d => .ok #v[a, b, c, d]
  | .bad e, _, _, _ => .bad e
  | _, .bad e, _, _ => .bad e
  | _, _, .bad e, _ => .bad e
  | _, _, _, .bad e => .bad e

/-- The optional start address. -/
def startAddress : Option Nat → Checked ConfigError (Option Word)
  | none => .ok none
  | some v =>
    match initialWord "START_PC" v with
    | .ok w => .ok (some w)
    | .bad e => .bad e

/-- The latches of a launch, in the shape of `IO_LATCH_MODEL`. -/
def initialLatches (model : IoLatchModel) (free : LaunchFree) : Latches :=
  match model with
  | .shared => .shared free.ports
  | .split => .split free.ports free.inPorts

/-- The launch state of checked values, before the first `ApplyEvents()`: the assignments of R270 in their order. -/
def launchState (lc : LaunchConfig) (cycleNs : Ratio) (rp : Word) (ie q : Bool) (ef : Vector Bool 4)
    (startPc : Option Word) (log : List Event) : State :=
  let s : State :=
    { cfg := ⟨lc.memSize, cycleNs, lc.qInvert, lc.intAckCycles, lc.idlePassCycles, lc.op68Mode⟩
      d := lc.free.d
      df := lc.free.df
      r := lc.free.r
      p := 0
      x := 0
      t := lc.free.t
      ie := ie
      q := q
      ef := ef
      latches := initialLatches lc.ioLatchModel lc.free
      mem := Memory.load lc.loadOffset lc.image []
      intPending := false
      idle := false
      cycles := 0
      queue := sortEvents log
      run := .running }
  let s := s.setPc rp
  match startPc with
  | none => s
  | some a => s.setPc a

/-- The checks of R274 that look at one number each. -/
def checkSizes (lc : LaunchConfig) : Option ConfigError :=
  if ¬(1 ≤ lc.memSize ∧ lc.memSize ≤ 65536) then some .memSize
  else if lc.loadOffset + lc.image.length > lc.memSize then some .imageTooLarge
  else if lc.intAckCycles = 0 then some (.costZero "INT_ACK_CYCLES")
  else if lc.idlePassCycles = 0 then some (.costZero "IDLE_PASS_CYCLES")
  else none

/-- `Reset(config)` (70_reset_and_hazards.md R270): the launch state, after the `ApplyEvents()` at `now_ns = 0`, or the
first configuration error in this order (log 13). -/
def launch (lc : LaunchConfig) : Checked ConfigError State :=
  match checkSizes lc with
  | some e => .bad e
  | none =>
  match cycleLength lc.cycleNs lc.clockHz with
  | .bad e => .bad e
  | .ok cycleNs =>
  match initialWord "INIT_RP" lc.initRp with
  | .bad e => .bad e
  | .ok rp =>
  match initialBit "INIT_IE" lc.initIe with
  | .bad e => .bad e
  | .ok ie =>
  match initialBit "INIT_Q" lc.initQ with
  | .bad e => .bad e
  | .ok q =>
  match initialEf lc.initEf with
  | .bad e => .bad e
  | .ok ef =>
  match startAddress lc.startPc with
  | .bad e => .bad e
  | .ok startPc =>
  match parseLog lc.eventLog with
  | .bad (line, why) => .bad (.malformedLog line why)
  | .ok log => .ok (launchState lc cycleNs rp ie q ef startPc log).applyEvents

end Sys2Proof.Machine
end

