-- ==== Sys2Proof/Safety.lean ====
section
/-! DEFINITION. What the claims say about runs: the invariant of every state a run can reach, which states a run can
reach, and the words in which a claim says what an instruction leaves unchanged and what a log's text is. -/

namespace Sys2Proof.Machine

namespace State

/-- What holds of every state between iterations: the launch parameters are ones a launch accepts
(70_reset_and_hazards.md R274), memory is in its canonical form and lists only cells that exist (20_memory.md R50), the
queue is ascending by time (60_exceptions.md R236), and `now_ns` fits in 64 bits (93_implementation_defined.md U14). -/
structure Inv (s : State) : Prop where
  cfgValid : configValid s.cfg = true
  memWf : Memory.wf s.mem = true
  memWithin : Memory.within s.cfg.memSize s.mem = true
  queueAscending : s.queue.Pairwise fun e f => e.time ≤ f.time
  timeFits : s.nowNs < 2 ^ 64

/-- The machine can take a step. -/
def CanStep (s : State) : Prop := ∃ t, step s = .next t

/-! ### Frames -/

/-- Every general register but the listed ones is as before. -/
def RegsKept (s t : State) (changed : List Nib) : Prop := ∀ n, n ∉ changed → t.reg n = s.reg n

/-- Every byte of memory reads as before. -/
def MemKept (s t : State) : Prop := ∀ a, t.memRead a = s.memRead a

/-- Every byte of memory reads as before, but at addresses that select the cell of `a`. -/
def MemKeptBut (s t : State) (a : Word) : Prop := ∀ b, s.cellOf b ≠ s.cellOf a → t.memRead b = s.memRead b

/-- Only registers (the listed ones) differ. -/
def OnlyRegs (s t : State) (changed : List Nib) : Prop :=
  t = { s with r := t.r } ∧ s.RegsKept t changed ∧ s.MemKept t

/-- Only `D` and registers (the listed ones) differ. -/
def OnlyDAndRegs (s t : State) (changed : List Nib) : Prop :=
  t = { s with d := t.d, r := t.r } ∧ s.RegsKept t changed ∧ s.MemKept t

/-- Only `D`, `DF` and registers (the listed ones) differ. -/
def OnlyDDfAndRegs (s t : State) (changed : List Nib) : Prop :=
  t = { s with d := t.d, df := t.df, r := t.r } ∧ s.RegsKept t changed ∧ s.MemKept t

/-- Only memory at the cell of `a` and registers (the listed ones) differ. -/
def OnlyByteAndRegs (s t : State) (a : Word) (changed : List Nib) : Prop :=
  t = { s with mem := t.mem, r := t.r } ∧ s.RegsKept t changed ∧ s.MemKeptBut t a

end State

/-! ### Events, as the claims speak of them -/

/-- The events at the head of a queue whose time is at or before `now`: those one `ApplyEvents()` applies. -/
def dueAt (now : Nat) (q : List Event) : List Event := q.takeWhile fun e => decide (e.time.val ≤ now)

/-- The values a list of events gives one flag line, in order. -/
def flagValues (line : EfLine) (events : List Event) : List Bool :=
  events.filterMap fun e =>
    match e.kind with
    | .flag l v => if l = line then some v else none
    | .interrupt => none
    | .input _ _ => none

/-- The values a list of events gives one port, in order. -/
def inputValues (port : Port) (events : List Event) : List Byte :=
  events.filterMap fun e =>
    match e.kind with
    | .input p v => if p = port then some v else none
    | .flag _ _ => none
    | .interrupt => none

/-! ### The event log's text, as the claims speak of it -/

/-- One or more of the characters `0` to `9`. -/
def IsDecimal (text : List Char) : Prop :=
  text ≠ [] ∧ ∀ c ∈ text, c ∈ ['0', '1', '2', '3', '4', '5', '6', '7', '8', '9']

/-- The number that decimal digits denote, the most significant first. -/
def decimalValue (digits : List Char) : Nat := digits.foldl (fun value c => 10 * value + (c.toNat - '0'.toNat)) 0

/-- `c` is the hex digit of value `v`, in either case. -/
def IsHexDigit (c : Char) (v : Nat) : Prop :=
  ['0', '1', '2', '3', '4', '5', '6', '7', '8', '9', 'a', 'b', 'c', 'd', 'e', 'f'][v]? = some c ∨
  ['0', '1', '2', '3', '4', '5', '6', '7', '8', '9', 'A', 'B', 'C', 'D', 'E', 'F'][v]? = some c

/-- Lines, each ended by a line feed, one after the other. -/
def joinLines (lines : List (List Char)) : List Char := lines.flatMap fun line => line ++ ['\n']

/-- The lines of a text: a line ends at a line feed, and the last one may end with the text instead, unless it is empty.
So a text that ends with a line feed has no further line after it: the model's reading of "an empty last line is allowed"
(60_exceptions.md R242, log 5). -/
def IsLinesOf (lines : List (List Char)) (text : List Char) : Prop :=
  (∀ line ∈ lines, '\n' ∉ line) ∧
  (text = joinLines lines ∨ (text ++ ['\n'] = joinLines lines ∧ lines.getLast? ≠ some []))

/-- One instruction executed a number of times, without fetches between. -/
def execTimes : Nat → Instr → State → Result
  | 0, _, s => .next s
  | k + 1, i, s =>
    match exec i s with
    | .next t => execTimes k i t
    | .fault f => .fault f
    | .refused r => .refused r

/-- A change of the next state, where there is one. -/
def mapNext (f : State → State) : Result → Result
  | .next t => .next (f t)
  | .fault e => .fault e
  | .refused e => .refused e

/-- The states a run can reach: a launch, then the host's commands, of which a step is one. -/
inductive Reachable : State → Prop
  | launched (lc : LaunchConfig) (s : State) : launch lc = .ok s → Reachable s
  | commanded (s t : State) (c : HostCommand) : Reachable s → hostStep s c = .next t → Reachable t

end Sys2Proof.Machine
end

