-- ==== Sys2Proof/Certificates/Slice0/Obligations.lean ====
section
/-! DEFINITION. The statements for the provers. Each docstring names the rules of spec/ it formalises; "the spec's
decision D<n>" is a choice of 92_eei_decisions.md, which the model follows (log 15). -/

open Sys2Proof Sys2Proof.Machine

/-! ### Encoding -/

/-- 30_encoding.md R71 to R76: no bit of an encoding is dropped. For every instruction and every operand, decoding its
bytes gives it back and leaves the bytes after it. -/
def Obligations.DecodeUndoesEncode : Prop :=
  ∀ (i : Instr) (rest : List Byte), i.wf = true → decode (encode i ++ rest) = .ok (i, rest)

/-- 30_encoding.md R77: one word has one meaning. Whatever bytes decode, the instruction is one the hardware has and its
encoding is those bytes. -/
def Obligations.EncodeUndoesDecode : Prop :=
  ∀ (bytes rest : List Byte) (i : Instr), decode bytes = .ok (i, rest) → i.wf = true ∧ bytes = encode i ++ rest

/-- 30_encoding.md R77: every opcode byte, whatever follows it, decodes to an instruction with that opcode; no other
instruction has that opcode and the same operand bytes; and its cost is 2 or 3. -/
def Obligations.EveryOpcodeByteSelectsOneInstruction : Prop :=
  ∀ (op b1 b2 : Byte), ∃ i rest,
    decode [op, b1, b2] = .ok (i, rest) ∧ i.wf = true ∧ i.opcode = op ∧
    (∀ j : Instr, j.wf = true → j.opcode = op → j.operandBytes = i.operandBytes → j = i) ∧
    (opcodeCost op = 2 ∨ opcodeCost op = 3)

/-- 30_encoding.md R71: how many bytes an instruction takes, from the opcode byte alone. -/
def Obligations.TheOpcodeByteAloneFixesTheLength : Prop :=
  ∀ (op b1 b2 : Byte) (rest : List Byte), ∃ i,
    decode (op :: b1 :: b2 :: rest) =
      .ok (i, (b1 :: b2 :: rest).drop
        (if op.toNat ∈ [0xC0, 0xC1, 0xC2, 0xC3, 0xC9, 0xCA, 0xCB] then 2
         else if op.toNat ∈ List.range' 0x30 16 ++ [0x7C, 0x7D, 0x7F] ++ List.range' 0xF8 6 ++ [0xFF] then 1
         else 0))

/-- 30_encoding.md R76: a word of each family, written out bit by bit, decodes to its instruction. -/
def Obligations.SampleWordsDecode : Prop :=
  decode [0b01000011] = .ok (.lda 3, []) ∧
  decode [0b00110010, 0b01000000] = .ok (.bz 0x40, []) ∧
  decode [0b11000000, 0b00010010, 0b00110100] = .ok (.lbr 0x1234, []) ∧
  decode [0b01111101, 0b00000001] = .ok (.sdbi 1, []) ∧
  decode [0b01111001] = .ok (.mark, []) ∧
  decode [0b01100100] = .ok (.out .p4, []) ∧ decode [0b01101001] = .ok (.inp .p1, [])

/-! ### The loop: one step -/

/-- 30_encoding.md R80, and R72 to R74 for where the operand bytes lie: a step that takes no interrupt and is not idle
advances `R[P]` past the opcode, performs the instruction that the bytes at `R[P]` decode to, charges its cost and ends the
iteration. That three bytes, at `R[P]`, `R[P] + 1` and `R[P] + 2`, are read and decoded before the instruction runs is the
model's (log 8, DEDUCED): the rules fetch the opcode byte alone and read an operand byte when the instruction runs. -/
def Obligations.StepRunsTheDecodedInstruction : Prop :=
  ∀ (s : State) (i : Instr) (rest : List Byte),
    s.run = .running → s.interruptTaken = false → s.idle = false →
    s.fetchBytes = [s.memRead (s.reg s.p), s.memRead (s.reg s.p + 1), s.memRead (s.reg s.p + 2)] ∧
    s.afterFetch.reg s.p = s.reg s.p + 1 ∧ s.OnlyRegs s.afterFetch [s.p] ∧
    (decode s.fetchBytes = .ok (i, rest) →
      i.wf = true ∧
      step s = finishInstr (opcodeCost i.opcode) (exec i s.afterFetch) ∧
      ∀ t, exec i s.afterFetch = .next t → step s = (t.charge (opcodeCost i.opcode)).endIteration)

/-- 60_exceptions.md R237 and 93_implementation_defined.md U14 (the model's reading of "refuse", log 7): an iteration ends
by applying the due events, and has no next state exactly when `now_ns` no longer fits in 64 bits. -/
def Obligations.AnIterationEndsWithTheDueEvents : Prop :=
  ∀ s : State,
    (s.cycles * s.cfg.cycleNs.num / s.cfg.cycleNs.den < 2 ^ 64 → s.endIteration = .next s.applyEvents) ∧
    (2 ^ 64 ≤ s.cycles * s.cfg.cycleNs.num / s.cfg.cycleNs.den → s.endIteration = .refused .timeBeyond64Bits)

/-- 60_exceptions.md R230 and R245 (the spec's decision D18): the host's stop sets `RUN` to `Halted`, in any state, and
changes nothing else; and a step faults exactly on a halted machine (the model's `halted`, log 6). -/
def Obligations.OnlyAHaltedMachineDoesNotIterate : Prop :=
  ∀ (s : State),
    hostStep s .stop = .next { s with run := .halted } ∧
    ((∃ f, step s = .fault f) ↔ s.run = .halted)

/-- 00_scope.md R13: a running machine steps, whatever its memory holds, as long as the time of the next boundary fits in
64 bits; the step charges the cost of the iteration the machine was about to run. -/
def Obligations.EveryRunningMachineSteps : Prop :=
  ∀ s : State, s.run = .running → timeAt s.cfg (s.cycles + s.nextCost) < 2 ^ 64 →
    ∃ t, step s = .next t ∧ t.cycles = s.cycles + s.nextCost ∧ t.run = .running ∧ t.cfg = s.cfg

/-- 60_exceptions.md R220: no instruction stops; each answers a next state on every operand in every state. -/
def Obligations.NoInstructionStops : Prop :=
  ∀ (i : Instr) (s : State), ∃ t, exec i s = .next t

/-- 30_encoding.md R79 (the spec's decision D29): an instruction's step charges 3 machine cycles for an opcode 0xC0 to
0xCF and 2 for any other, whatever the instruction does. -/
def Obligations.AnInstructionCostsTwoOrThreeCyclesByItsOpcode : Prop :=
  ∀ s t : State, s.run = .running → s.interruptTaken = false → s.idle = false → step s = .next t →
    t.cycles = s.cycles + (if (s.memRead (s.reg s.p)).toNat / 16 = 0xC then 3 else 2)

/-- 60_exceptions.md R235 (the spec's decision D24): "time until next instruction boundary" is the time the next step
takes. -/
def Obligations.TimeToBoundaryIsWhatTheNextStepTakes : Prop :=
  ∀ s t : State, step s = .next t → t.nowNs = s.nowNs + s.timeToBoundary

/-- 10_state.md R33: `CYCLES` starts at 0 and is never rewound; only the charge of an iteration changes it, no other command
of the host does; no instruction reads or writes it; `now_ns` is derived from it. -/
def Obligations.CyclesOnlyGrowAndNoInstructionSeesThem : Prop :=
  (∀ (lc : LaunchConfig) (s : State), launch lc = .ok s → s.cycles = 0) ∧
  (∀ (s t : State) (c : HostCommand), hostStep s c = .next t →
    s.cycles ≤ t.cycles ∧ t.cycles = s.cycles + (if c = .stepOne then s.nextCost else 0)) ∧
  (∀ (i : Instr) (s : State) (c : Nat),
    exec i { s with cycles := c } = mapNext (fun t => { t with cycles := c }) (exec i s)) ∧
  (∀ (i : Instr) (s t : State), exec i s = .next t → t.cycles = s.cycles) ∧
  (∀ s t : State, s.cfg = t.cfg → s.cycles = t.cycles → s.nowNs = t.nowNs)

/-- 10_state.md R31, R35 and R34: no instruction reads or writes the request, the queue or the run state; two states that
differ only there are told apart by no instruction. -/
def Obligations.NoInstructionSeesTheSynchroniser : Prop :=
  ∀ (i : Instr) (s : State) (b : Bool) (l : List Event) (ru : RunState),
    exec i { s with intPending := b, queue := l, run := ru } =
      mapNext (fun t => { t with intPending := b, queue := l, run := ru }) (exec i s)

/-- 10_state.md R28 (the spec's decision D14): `Q_INVERT` reaches only `Q_OUT`; no step depends on it. -/
def Obligations.QInvertReachesOnlyTheOutput : Prop :=
  ∀ (s : State) (b : Bool),
    step { s with cfg := { s.cfg with qInvert := b } } =
      mapNext (fun t => { t with cfg := { t.cfg with qInvert := b } }) (step s) ∧
    ({ s with cfg := { s.cfg with qInvert := b } } : State).qOut = (s.q ^^ b)

/-! ### The interrupt -/

/-- 60_exceptions.md R223 and R224 (the spec's decisions D2, D8, D9, D10): a pending request with `IE = 1` is taken: `X:P`
is saved in `T`, `X = 2`, `P = 1`, so the next fetch is at `R[1]`, `IE`, `IDLE` and the request are cleared (but for a
request that a due event makes at this boundary), `INT_ACK_CYCLES` are charged, and no register, memory byte, `D`, `DF`
or `Q` changes: the instruction at the old `R[P]` has not run. -/
def Obligations.AnEnabledRequestIsAcknowledged : Prop :=
  ∀ s : State, s.run = .running → s.intPending = true → s.ie = true →
    timeAt s.cfg (s.cycles + s.cfg.intAckCycles) < 2 ^ 64 →
    ∃ t, step s = .next t ∧
      t.t.toNat = 16 * s.x.toNat + s.p.toNat ∧ t.x = 2 ∧ t.p = 1 ∧ t.pc = s.reg 1 ∧ t.ie = false ∧ t.idle = false ∧
      t.cycles = s.cycles + s.cfg.intAckCycles ∧
      t.intPending = (dueAt t.nowNs s.queue).any (fun e => e.kind == .interrupt) ∧
      t = { s with t := t.t, x := t.x, p := t.p, ie := t.ie, idle := t.idle, cycles := t.cycles,
                   intPending := t.intPending, ef := t.ef, latches := t.latches, queue := t.queue } ∧
      s.MemKept t

/-- 60_exceptions.md R223: an interrupt is taken exactly when a request is pending and `IE = 1`; otherwise the step is an
idle pass or an instruction. -/
def Obligations.AnInterruptIsTakenExactlyWhenPendingAndEnabled : Prop :=
  ∀ s : State, s.run = .running →
    (s.intPending = true ∧ s.ie = true → step s = s.interruptAck.endIteration) ∧
    ((s.intPending = false ∨ s.ie = false) → s.idle = true →
      step s = (s.charge s.cfg.idlePassCycles).endIteration) ∧
    ((s.intPending = false ∨ s.ie = false) → s.idle = false →
      step s = finishInstr (opcodeCost (s.memRead (s.reg s.p))) (exec s.fetchInstr s.afterFetch))

/-- 60_exceptions.md R222 and 10_state.md R31 (the spec's decision D8): a request is withdrawn only by its
acknowledgement; while `IE = 0` it stays pending. -/
def Obligations.ARequestStaysUntilAcknowledged : Prop :=
  ∀ (s t : State) (c : HostCommand), hostStep s c = .next t → s.intPending = true → t.intPending = false →
    c = .stepOne ∧ s.ie = true ∧ t.ie = false ∧ t.x = 2 ∧ t.p = 1

/-- 45_control.md R190 and 60_exceptions.md R229 (the spec's decision D10): an idle machine that takes no interrupt makes
an idle pass: it charges `IDLE_PASS_CYCLES`, stays idle and changes nothing but what the due events change. -/
def Obligations.AnIdlePassOnlyChargesAndAppliesEvents : Prop :=
  ∀ s : State, s.run = .running → s.interruptTaken = false → s.idle = true →
    timeAt s.cfg (s.cycles + s.cfg.idlePassCycles) < 2 ^ 64 →
    ∃ t, step s = .next t ∧ t.cycles = s.cycles + s.cfg.idlePassCycles ∧
      t = { s with cycles := t.cycles, ef := t.ef, latches := t.latches, intPending := t.intPending, queue := t.queue } ∧
      s.MemKept t

/-- 10_state.md R32 (the spec's decisions D10 and D21): only an acknowledgement, or the host's own clearing, ends the idle
state. -/
def Obligations.IdleEndsOnlyByAcknowledgementOrHost : Prop :=
  ∀ (s t : State) (c : HostCommand), hostStep s c = .next t → s.idle = true → t.idle = false →
    c = .poke .clearIdle ∨ (c = .stepOne ∧ s.intPending = true ∧ s.ie = true)

/-- 60_exceptions.md R226 and 90_conflicts.md C4: under the handler convention, DEC 2 and SAV at entry and then RET or DIS
with `X = 2`, the return undoes the acknowledgement: `X`, `P` and every register but the handler's own program counter
`R[1]` are as before, and `IE` is 1 (RET) or 0 (DIS). -/
def Obligations.ReturnUndoesAcknowledgement : Prop :=
  ∀ s : State, ∃ t1 t2,
    exec (.dec 2) s.interruptAck.afterFetch = .next t1 ∧ exec .sav t1.afterFetch = .next t2 ∧
    ∀ c ∈ [(Instr.ret, true), (Instr.dis, false)], ∃ t3,
      exec c.1 t2.afterFetch = .next t3 ∧ t3.x = s.x ∧ t3.p = s.p ∧ t3.ie = c.2 ∧
      (∀ n, n ≠ 1 → t3.reg n = s.reg n) ∧ t3.d = s.d ∧ t3.df = s.df ∧
      s.MemKeptBut t3 (s.reg 2 - 1)

/-! ### Events -/

/-- 60_exceptions.md R237: with the queue in its order, a step applies every event whose time is at or before the new
`now_ns` and removes each, and no other. -/
def Obligations.AStepConsumesExactlyTheDueEvents : Prop :=
  ∀ s t : State, s.Inv → step s = .next t →
    t.queue = s.queue.filter (fun e => decide (t.nowNs < e.time.val)) ∧
    dueAt t.nowNs s.queue = s.queue.filter (fun e => decide (e.time.val ≤ t.nowNs))

/-- 60_exceptions.md R238, R240 and R228 (the spec's decisions D6 and D13): after ApplyEvents a flag line, and the latch
that INP reads, have the value of the last due event for them in queue order, and otherwise the value they had; under
`split` the output latches are untouched. -/
def Obligations.TheLastDueEventWins : Prop :=
  ∀ (s : State) (line : EfLine) (port : Port),
    s.applyEvents.efOf line = ((flagValues line (dueAt s.nowNs s.queue)).getLast?).getD (s.efOf line) ∧
    s.applyEvents.portIn port = ((inputValues port (dueAt s.nowNs s.queue)).getLast?).getD (s.portIn port) ∧
    s.applyEvents.latches.model = s.latches.model ∧
    (s.latches.model = .split → s.applyEvents.portOut port = s.portOut port) ∧
    (s.latches.model = .shared → s.applyEvents.portOut port = s.applyEvents.portIn port)

/-- 60_exceptions.md R239: interrupt events set the request, several as one, and events change nothing but the flag lines,
the latches, the request and the queue. -/
def Obligations.InterruptEventsSetOneRequest : Prop :=
  ∀ s : State,
    s.applyEvents.intPending = (s.intPending || (dueAt s.nowNs s.queue).any (fun e => e.kind == .interrupt)) ∧
    s.applyEvents = { s with ef := s.applyEvents.ef, latches := s.applyEvents.latches,
                             intPending := s.applyEvents.intPending, queue := s.applyEvents.queue } ∧
    (∀ now, s.applyEvent ⟨now, .interrupt⟩ = { s with intPending := true })

/-- 60_exceptions.md R236: the queue of a launch is the stable sort of the log's events by time (the same events, ascending,
ties in log order), less the events at time 0 that the launch applies. -/
def Obligations.TheQueueIsTheStableSortOfTheLog : Prop :=
  (∀ log : List Event, (sortEvents log).Perm log ∧ (sortEvents log).Pairwise (fun e f => e.time ≤ f.time) ∧
    ∀ time, (sortEvents log).filter (fun e => e.time == time) = log.filter (fun e => e.time == time)) ∧
  (∀ (lc : LaunchConfig) (s : State), launch lc = .ok s → ∃ log, parseLog lc.eventLog = .ok log ∧
    s.queue = (sortEvents log).filter (fun e => e.time != 0))

/-- 60_exceptions.md R245 (the spec's decision D17): an injected event is the one the host wrote, with its time, its kind,
its line or port and its value; it goes after every queued event with a time at or below its own and before any later one,
and nothing else changes. One with a number out of range is refused (log 10). -/
def Obligations.AnInjectedEventTakesItsPlace : Prop :=
  ∀ (s : State) (e : RawEvent), s.Inv →
    (∀ ev, e.checked = some ev →
      ev.time.val = e.time ∧
      (∀ line value, e.kind = .flag line value → ∃ l v, ev.kind = .flag l v ∧ l.number = line ∧ v.toNat = value) ∧
      (e.kind = .interrupt → ev.kind = .interrupt) ∧
      (∀ port value, e.kind = .input port value → ∃ p b, ev.kind = .input p b ∧ p.number = port ∧ b.toNat = value) ∧
      ∃ t before after, hostStep s (.inject e) = .next t ∧ t = { s with queue := t.queue } ∧
        s.queue = before ++ after ∧ t.queue = before ++ ev :: after ∧
        (∀ f ∈ before, f.time ≤ ev.time) ∧ (∀ f ∈ after, ev.time < f.time)) ∧
    (e.checked = none → hostStep s (.inject e) = .refused .outOfRange) ∧
    (e.checked = none ↔ (2 ^ 64 ≤ e.time ∨
      (∃ line value, e.kind = .flag line value ∧ (line < 1 ∨ 4 < line ∨ 1 < value)) ∨
      (∃ port value, e.kind = .input port value ∧ (port < 1 ∨ 7 < port ∨ 255 < value))))

/-- 60_exceptions.md R242 and R243 (lexical choices: the spec's decision D22). Which lines of the log are accepted, and as
what: the time is one or more digits `0` to `9` whose value fits in 64 bits, as the time of every event does; leading zeros
are accepted (log 5). Then how a log's text is accepted: its lines are what line feeds end (`IsLinesOf`, log 5), the log is
accepted exactly when every line is, and its events are theirs in order; otherwise the first line that is not accepted is
reported with its number, counted from 1 (log 5). -/
def Obligations.WhichLogLinesAreAccepted : Prop :=
  (∀ (line : List Char) (e : Event),
    parseLine line = .ok e ↔
      ∃ time, IsDecimal time ∧ decimalValue time = e.time.val ∧
        ((∃ l v, e.kind = .flag l v ∧
            line = time ++ ",flag,ef".toList ++ [Char.ofNat (48 + l.number), ',', if v then '1' else '0']) ∨
         (e.kind = .interrupt ∧ line = time ++ ",int".toList) ∨
         (∃ p b h l vh vl, e.kind = .input p b ∧
            line = time ++ ",input,io".toList ++ [Char.ofNat (48 + p.number), ',', h, l] ∧
            IsHexDigit h vh ∧ IsHexDigit l vl ∧ b.toNat = 16 * vh + vl))) ∧
  ∀ text : String,
    (∃ lines, IsLinesOf lines text.toList) ∧
    ∀ lines, IsLinesOf lines text.toList →
      (∀ events, parseLog text = .ok events ↔ lines.map parseLine = events.map .ok) ∧
      (∀ before line why after, lines = before ++ line :: after → (∀ l ∈ before, ∃ e, parseLine l = .ok e) →
        parseLine line = .bad why → parseLog text = .bad (before.length + 1, why))

/-! ### Invariants -/

/-- The invariant of `State.Inv` holds right after reset (70_reset_and_hazards.md R271; the default parameters are the
spec's, `CYCLE_NS` is the model's choice, log 2). -/
def Obligations.ResetMeetsTheInvariant : Prop := State.reset.Inv

/-- Every step keeps the invariant: valid parameters, canonical memory with no cell that does not exist (20_memory.md R50),
an ascending queue (60_exceptions.md R236), a time that fits in 64 bits. -/
def Obligations.EveryStepKeepsTheInvariant : Prop :=
  ∀ s t : State, s.Inv → step s = .next t → t.Inv

/-- Every launch meets the invariant (70_reset_and_hazards.md R270), and every command of the host (60_exceptions.md R245: a
step, a poke, an injection, a stop) keeps it, from every state that meets it, reachable or not; so every state a run can
reach meets it. The time bound is the model's reading of U14 (log 7). -/
def Obligations.EveryReachableStateMeetsTheInvariant : Prop :=
  (∀ (lc : LaunchConfig) (s : State), launch lc = .ok s → s.Inv) ∧
  (∀ (s t : State) (c : HostCommand), s.Inv → hostStep s c = .next t → t.Inv) ∧
  (∀ s : State, Reachable s → s.Inv)

/-- 20_memory.md R50, R51: memory is data. Two canonical memories that read alike at every cell are equal. -/
def Obligations.MemoriesThatReadAlikeAreEqual : Prop :=
  ∀ m m' : Memory, Memory.wf m = true → Memory.wf m' = true → (∀ a, Memory.read a m = Memory.read a m') → m = m'

/-! ### Memory and launch -/

/-- 20_memory.md R51: a read returns the byte of cell `a mod MEM_SIZE`, a write changes that one cell; no access fails. -/
def Obligations.AWriteChangesExactlyOneCell : Prop :=
  ∀ (s : State) (a b : Word) (v : Byte),
    s.memRead a = s.mem.read (a.toNat % s.cfg.memSize) ∧
    (s.memWrite a v).memRead b =
      (if b.toNat % s.cfg.memSize = a.toNat % s.cfg.memSize then v else s.memRead b) ∧
    (∀ c, c ≠ a.toNat % s.cfg.memSize → (s.memWrite a v).mem.read c = s.mem.read c) ∧
    s.memWrite a v = { s with mem := (s.memWrite a v).mem }

/-- 20_memory.md R61: a store is seen by the very next fetch. STR with `N = P` overwrites the byte `R[P]` addresses. -/
def Obligations.AStoreIsSeenByTheNextFetch : Prop :=
  ∀ s : State, ∃ t, exec (.str s.p) s = .next t ∧ t.opcodeByte = s.d ∧ t.pc = s.pc

/-- 70_reset_and_hazards.md R270 to R272 and 20_memory.md R55 (the spec's decisions D12, D15 and D16): what a launch leaves,
for every value of the free launch inputs and of the parameters. The log's events at time 0 have been applied: the last of
them for a flag line or for the latch INP reads gives its value. -/
def Obligations.LaunchValues : Prop :=
  ∀ (lc : LaunchConfig) (s : State), launch lc = .ok s →
    s.p = 0 ∧ s.x = 0 ∧ (s.reg 0).toNat = lc.startPc.getD lc.initRp ∧ (∀ n : Nib, n ≠ 0 → s.reg n = lc.free.r[n.toNat]'n.isLt) ∧
    s.ie.toNat = lc.initIe ∧ s.q.toNat = lc.initQ ∧ s.d = lc.free.d ∧ s.df = lc.free.df ∧ s.t = lc.free.t ∧
    s.idle = false ∧ s.cycles = 0 ∧ s.nowNs = 0 ∧ s.run = .running ∧
    s.cfg.memSize = lc.memSize ∧ s.cfg.qInvert = lc.qInvert ∧ s.cfg.intAckCycles = lc.intAckCycles ∧
    s.cfg.idlePassCycles = lc.idlePassCycles ∧ s.cfg.op68Mode = lc.op68Mode ∧
    (∀ k (h : k < lc.image.length), s.mem.read (lc.loadOffset + k) = lc.image[k]) ∧
    (∀ a, (a < lc.loadOffset ∨ lc.loadOffset + lc.image.length ≤ a) → s.mem.read a = 0) ∧
    (∀ log, parseLog lc.eventLog = .ok log →
      (s.intPending = true ↔ ∃ e ∈ log, e.time = 0 ∧ e.kind = .interrupt) ∧
      s.queue = (sortEvents log).filter (fun e => e.time != 0) ∧
      (∀ line : EfLine, (s.efOf line).toNat =
        (((flagValues line (log.filter (fun e => e.time == 0))).getLast?).map Bool.toNat).getD
          (lc.initEf.toList.getD (line.number - 1) 0)) ∧
      s.latches.model = lc.ioLatchModel ∧
      (∀ port : Port, s.portIn port =
        ((inputValues port (log.filter (fun e => e.time == 0))).getLast?).getD
          (if lc.ioLatchModel = .shared then latchGet lc.free.ports port else latchGet lc.free.inPorts port)) ∧
      (∀ port : Port, s.portOut port =
        if lc.ioLatchModel = .shared then s.portIn port else latchGet lc.free.ports port) ∧
      ((∀ e ∈ log, e.time ≠ 0) → s.queue = sortEvents log ∧ s.latches = initialLatches lc.ioLatchModel lc.free ∧
        (s.efOf .ef1).toNat = lc.initEf[0] ∧ (s.efOf .ef2).toNat = lc.initEf[1] ∧
        (s.efOf .ef3).toNat = lc.initEf[2] ∧ (s.efOf .ef4).toNat = lc.initEf[3]))

/-- 70_reset_and_hazards.md R274: a configuration builds a launch state exactly when none of its errors holds. -/
def Obligations.ExactlyTheFaultyConfigurationsAreRefused : Prop :=
  ∀ lc : LaunchConfig,
    (∃ s, launch lc = .ok s) ↔
      (1 ≤ lc.memSize ∧ lc.memSize ≤ 65536) ∧ lc.loadOffset + lc.image.length ≤ lc.memSize ∧
      1 ≤ lc.intAckCycles ∧ 1 ≤ lc.idlePassCycles ∧
      ((∃ c, lc.cycleNs = some c ∧ lc.clockHz = none ∧ 0 < c.num ∧ 0 < c.den) ∨
       (∃ h, lc.clockHz = some h ∧ lc.cycleNs = none ∧ 0 < h.num ∧ 0 < h.den)) ∧
      lc.initRp < 65536 ∧ lc.initIe < 2 ∧ lc.initQ < 2 ∧
      (∀ k (h : k < 4), lc.initEf[k] < 2) ∧ (∀ a, lc.startPc = some a → a < 65536) ∧
      (∃ log, parseLog lc.eventLog = .ok log)

/-- 60_exceptions.md R234: `CYCLE_NS` is what is given, or `8 × 10^9 / CLOCK_HZ`; a configuration with both or neither is
refused. -/
def Obligations.CycleLengthComesFromExactlyOneParameter : Prop :=
  ∀ lc : LaunchConfig,
    (lc.cycleNs.isSome = lc.clockHz.isSome → ∃ e, launch lc = .bad e) ∧
    (∀ s c, launch lc = .ok s → lc.cycleNs = some c → s.cfg.cycleNs = c) ∧
    (∀ s h, launch lc = .ok s → lc.clockHz = some h →
      s.cfg.cycleNs.num * h.num = 8 * 10 ^ 9 * h.den * s.cfg.cycleNs.den ∧ 0 < s.cfg.cycleNs.den)

/-- 60_exceptions.md R245, R246 (the spec's decision D21): a poke sets what it names, to a value in its width, and nothing
else; out of range it is refused; IDLE can only be cleared. -/
def Obligations.APokeSetsWhatItNamesOrIsRefused : Prop :=
  ∀ (s : State) (v i : Nat),
    hostStep s (.poke (.d v)) = (if v < 256 then .next { s with d := BitVec.ofNat 8 v } else .refused .outOfRange) ∧
    hostStep s (.poke (.t v)) = (if v < 256 then .next { s with t := BitVec.ofNat 8 v } else .refused .outOfRange) ∧
    hostStep s (.poke (.p v)) = (if v < 16 then .next { s with p := BitVec.ofNat 4 v } else .refused .outOfRange) ∧
    hostStep s (.poke (.x v)) = (if v < 16 then .next { s with x := BitVec.ofNat 4 v } else .refused .outOfRange) ∧
    hostStep s (.poke (.df v)) = (if v < 2 then .next { s with df := decide (v = 1) } else .refused .outOfRange) ∧
    hostStep s (.poke (.ie v)) = (if v < 2 then .next { s with ie := decide (v = 1) } else .refused .outOfRange) ∧
    hostStep s (.poke (.q v)) = (if v < 2 then .next { s with q := decide (v = 1) } else .refused .outOfRange) ∧
    hostStep s (.poke .clearIdle) = .next { s with idle := false } ∧
    (if i < 16 ∧ v < 65536 then
      ∃ t, hostStep s (.poke (.r i v)) = .next t ∧ t.reg (BitVec.ofNat 4 i) = BitVec.ofNat 16 v ∧
        s.OnlyRegs t [BitVec.ofNat 4 i]
     else hostStep s (.poke (.r i v)) = .refused .outOfRange) ∧
    (if i < 65536 ∧ v < 256 then
      ∃ t, hostStep s (.poke (.mem i v)) = .next t ∧ t.memRead (BitVec.ofNat 16 i) = BitVec.ofNat 8 v ∧
        s.OnlyByteAndRegs t (BitVec.ofNat 16 i) []
     else hostStep s (.poke (.mem i v)) = .refused .outOfRange) ∧
    (if 1 ≤ i ∧ i ≤ 4 ∧ v < 2 then
      ∃ t line, EfLine.number line = i ∧ hostStep s (.poke (.ef i v)) = .next t ∧ t.efOf line = decide (v = 1) ∧
        (∀ other, other ≠ line → t.efOf other = s.efOf other) ∧ t = { s with ef := t.ef }
     else hostStep s (.poke (.ef i v)) = .refused .outOfRange)

/-- 10_state.md R30 and 60_exceptions.md R245 (the spec's decisions D6 and D21; a latch the model does not have: log 10):
the pokes of port latches under both latch models. -/
def Obligations.ALatchPokeSetsItsLatchOrIsRefused : Prop :=
  ∀ (s : State) (port : Port) (n v : Nat),
    (v < 256 → s.latches.model = .shared → ∃ t, hostStep s (.poke (.port port.number v)) = .next t ∧
      t.portIn port = BitVec.ofNat 8 v ∧ t.portOut port = BitVec.ofNat 8 v ∧
      (∀ o, o ≠ port → t.portIn o = s.portIn o ∧ t.portOut o = s.portOut o) ∧ t = { s with latches := t.latches }) ∧
    (v < 256 → s.latches.model = .split → ∃ t, hostStep s (.poke (.outPort port.number v)) = .next t ∧
      t.portOut port = BitVec.ofNat 8 v ∧ (∀ o, t.portIn o = s.portIn o) ∧
      (∀ o, o ≠ port → t.portOut o = s.portOut o) ∧ t = { s with latches := t.latches }) ∧
    (v < 256 → s.latches.model = .split → ∃ t, hostStep s (.poke (.inPort port.number v)) = .next t ∧
      t.portIn port = BitVec.ofNat 8 v ∧ (∀ o, t.portOut o = s.portOut o) ∧
      (∀ o, o ≠ port → t.portIn o = s.portIn o) ∧ t = { s with latches := t.latches }) ∧
    ((n < 1 ∨ 7 < n ∨ 256 ≤ v) →
      (∃ r, hostStep s (.poke (.port n v)) = .refused r) ∧ (∃ r, hostStep s (.poke (.outPort n v)) = .refused r) ∧
      (∃ r, hostStep s (.poke (.inPort n v)) = .refused r)) ∧
    (s.latches.model = .split → hostStep s (.poke (.port n v)) = .refused .noSuchLatch) ∧
    (s.latches.model = .shared → hostStep s (.poke (.outPort n v)) = .refused .noSuchLatch ∧
      hostStep s (.poke (.inPort n v)) = .refused .noSuchLatch)

/-! ### Register transfer -/

/-- 41_register_transfer.md R101 to R105: the loads give D the byte their pointer addresses, or the immediate byte; LDA and
LDXA then advance the pointer, LDI advances `R[P]`; nothing else changes. -/
def Obligations.LoadsGiveDTheirByte : Prop :=
  ∀ (s : State) (n : Nib) (b : Byte),
    (n ≠ 0 → decode [BitVec.ofNat 8 n.toNat] = .ok (.ldn n, []) ∧
      ∃ t, exec (.ldn n) s = .next t ∧ t.d = s.memRead (s.reg n) ∧ s.OnlyDAndRegs t []) ∧
    (decode [BitVec.ofNat 8 (0x40 + n.toNat)] = .ok (.lda n, []) ∧
      ∃ t, exec (.lda n) s = .next t ∧ t.d = s.memRead (s.reg n) ∧ t.reg n = s.reg n + 1 ∧ s.OnlyDAndRegs t [n]) ∧
    (decode [0xF0] = .ok (.ldx, []) ∧
      ∃ t, exec .ldx s = .next t ∧ t.d = s.memRead (s.reg s.x) ∧ s.OnlyDAndRegs t []) ∧
    (decode [0x72] = .ok (.ldxa, []) ∧
      ∃ t, exec .ldxa s = .next t ∧ t.d = s.memRead (s.reg s.x) ∧ t.reg s.x = s.reg s.x + 1 ∧ s.OnlyDAndRegs t [s.x]) ∧
    (decode [0xF8, b] = .ok (.ldi b, []) ∧
      ∃ t, exec (.ldi b) s = .next t ∧ t.d = b ∧ t.reg s.p = s.reg s.p + 1 ∧ s.OnlyDAndRegs t [s.p])

/-- 41_register_transfer.md R106 and R107: STR and STXD store D at `R[N]` and `R[X]`; STXD then moves `R[X]` down; no other
byte of memory and nothing else changes. -/
def Obligations.StoresPutDAtTheirPointer : Prop :=
  ∀ (s : State) (n : Nib),
    (decode [BitVec.ofNat 8 (0x50 + n.toNat)] = .ok (.str n, []) ∧
      ∃ t, exec (.str n) s = .next t ∧ t.memRead (s.reg n) = s.d ∧ s.OnlyByteAndRegs t (s.reg n) []) ∧
    (decode [0x73] = .ok (.stxd, []) ∧
      ∃ t, exec .stxd s = .next t ∧ t.memRead (s.reg s.x) = s.d ∧ t.reg s.x = s.reg s.x - 1 ∧
        s.OnlyByteAndRegs t (s.reg s.x) [s.x])

/-- 41_register_transfer.md R108 to R110: IRX, INC and DEC move one register by one, modulo 65536; nothing else changes. -/
def Obligations.IncrementsAndDecrementsWrap : Prop :=
  ∀ (s : State) (n : Nib),
    (decode [0x60] = .ok (.irx, []) ∧
      ∃ t, exec .irx s = .next t ∧ (t.reg s.x).toNat = ((s.reg s.x).toNat + 1) % 65536 ∧ s.OnlyRegs t [s.x]) ∧
    (decode [BitVec.ofNat 8 (0x10 + n.toNat)] = .ok (.inc n, []) ∧
      ∃ t, exec (.inc n) s = .next t ∧ (t.reg n).toNat = ((s.reg n).toNat + 1) % 65536 ∧ s.OnlyRegs t [n]) ∧
    (decode [BitVec.ofNat 8 (0x20 + n.toNat)] = .ok (.dec n, []) ∧
      ∃ t, exec (.dec n) s = .next t ∧ (t.reg n).toNat = ((s.reg n).toNat + 65535) % 65536 ∧ s.OnlyRegs t [n])

/-- 41_register_transfer.md R111 to R114: GLO and GHI give D one half of a register, PLO and PHI put D into one half and
keep the other; nothing else changes. -/
def Obligations.RegisterHalvesMoveThroughD : Prop :=
  ∀ (s : State) (n : Nib),
    (decode [BitVec.ofNat 8 (0x80 + n.toNat)] = .ok (.glo n, []) ∧
      ∃ t, exec (.glo n) s = .next t ∧ t.d.toNat = (s.reg n).toNat % 256 ∧ s.OnlyDAndRegs t []) ∧
    (decode [BitVec.ofNat 8 (0x90 + n.toNat)] = .ok (.ghi n, []) ∧
      ∃ t, exec (.ghi n) s = .next t ∧ t.d.toNat = (s.reg n).toNat / 256 ∧ s.OnlyDAndRegs t []) ∧
    (decode [BitVec.ofNat 8 (0xA0 + n.toNat)] = .ok (.plo n, []) ∧
      ∃ t, exec (.plo n) s = .next t ∧ (t.reg n).toNat = (s.reg n).toNat / 256 * 256 + s.d.toNat ∧ s.OnlyRegs t [n]) ∧
    (decode [BitVec.ofNat 8 (0xB0 + n.toNat)] = .ok (.phi n, []) ∧
      ∃ t, exec (.phi n) s = .next t ∧ (t.reg n).toNat = s.d.toNat * 256 + (s.reg n).toNat % 256 ∧ s.OnlyRegs t [n])

/-! ### Branches and skips -/

/-- 42_short_branch.md R120 to R128: the short branches on a set condition. Taken, the branch byte replaces the low byte of
`R[P]` and the high byte stays; not taken, `R[P]` goes past the branch byte; nothing else changes; either way 2 cycles. -/
def Obligations.ShortBranchesOnASetCondition : Prop :=
  ∀ (s : State) (b : Byte), ∀ c ∈ ([
      (0x30, .br b, True), (0x31, .bq b, s.q = true), (0x32, .bz b, s.d = 0), (0x33, .bdf b, s.df = true),
      (0x34, .b1 b, s.efOf .ef1 = true), (0x35, .b2 b, s.efOf .ef2 = true),
      (0x36, .b3 b, s.efOf .ef3 = true), (0x37, .b4 b, s.efOf .ef4 = true)] : List (Byte × Instr × Prop)),
    decode [c.1, b] = .ok (c.2.1, []) ∧ opcodeCost c.1 = 2 ∧
    ∃ t, exec c.2.1 s = .next t ∧ s.OnlyRegs t [s.p] ∧
      (c.2.2 → (t.reg s.p).toNat = (s.reg s.p).toNat / 256 * 256 + b.toNat) ∧
      (¬c.2.2 → t.reg s.p = s.reg s.p + 1)

/-- 42_short_branch.md R120 and R129 to R136: the short skip, and the short branches on a clear condition, as above. -/
def Obligations.ShortBranchesOnAClearCondition : Prop :=
  ∀ (s : State) (b : Byte), ∀ c ∈ ([
      (0x38, .skp b, False), (0x39, .bnq b, s.q = false), (0x3A, .bnz b, s.d ≠ 0), (0x3B, .bnf b, s.df = false),
      (0x3C, .bn1 b, s.efOf .ef1 = false), (0x3D, .bn2 b, s.efOf .ef2 = false),
      (0x3E, .bn3 b, s.efOf .ef3 = false), (0x3F, .bn4 b, s.efOf .ef4 = false)] : List (Byte × Instr × Prop)),
    decode [c.1, b] = .ok (c.2.1, []) ∧ opcodeCost c.1 = 2 ∧
    ∃ t, exec c.2.1 s = .next t ∧ s.OnlyRegs t [s.p] ∧
      (c.2.2 → (t.reg s.p).toNat = (s.reg s.p).toNat / 256 * 256 + b.toNat) ∧
      (¬c.2.2 → t.reg s.p = s.reg s.p + 1)

/-- 43_long_branch.md R142 to R145 and R151 to R153: the long branches. The first byte after the opcode is the high byte of
the target. Taken, the target replaces `R[P]`; not taken, `R[P]` goes past both bytes; nothing else changes; either way 3 cycles. -/
def Obligations.LongBranches : Prop :=
  ∀ (s : State) (hi lo : Byte) (target : Word), target.toNat = 256 * hi.toNat + lo.toNat → ∀ c ∈ ([
      (0xC0, .lbr target, True), (0xC1, .lbq target, s.q = true), (0xC2, .lbz target, s.d = 0),
      (0xC3, .lbdf target, s.df = true), (0xC9, .lbnq target, s.q = false), (0xCA, .lbnz target, s.d ≠ 0),
      (0xCB, .lbnf target, s.df = false)] : List (Byte × Instr × Prop)),
    decode [c.1, hi, lo] = .ok (c.2.1, []) ∧ opcodeCost c.1 = 3 ∧
    ∃ t, exec c.2.1 s = .next t ∧ s.OnlyRegs t [s.p] ∧
      (c.2.2 → t.reg s.p = target) ∧ (¬c.2.2 → t.reg s.p = s.reg s.p + 2)

/-- 43_long_branch.md R146 to R150 and R154 to R157: NOP and the long skips. A skip moves `R[P]` on by two or does nothing
at all; each costs 3 cycles. -/
def Obligations.LongSkips : Prop :=
  ∀ s : State, ∀ c ∈ ([
      (0xC4, .nop, False), (0xC5, .lsnq, s.q = false), (0xC6, .lsnz, s.d ≠ 0), (0xC7, .lsnf, s.df = false),
      (0xC8, .lskp, True), (0xCC, .lsie, s.ie = true), (0xCD, .lsq, s.q = true), (0xCE, .lsz, s.d = 0),
      (0xCF, .lsdf, s.df = true)] : List (Byte × Instr × Prop)),
    decode [c.1] = .ok (c.2.1, []) ∧ opcodeCost c.1 = 3 ∧
    ∃ t, exec c.2.1 s = .next t ∧ s.OnlyRegs t [s.p] ∧
      (c.2.2 → t.reg s.p = s.reg s.p + 2) ∧ (¬c.2.2 → t = s)

/-! ### Arithmetic, logic and shifts -/

/-- 44_arithmetic_logic.md R162 to R167: the logic instructions act on D bit by bit, with the byte at `R[X]` or the
immediate byte, and leave DF; an immediate form advances `R[P]`; nothing else changes. -/
def Obligations.LogicActsOnDAndLeavesDF : Prop :=
  ∀ (s : State) (b : Byte), ∀ c ∈ ([
      ([0xF1], .or, s.d ||| s.memRead (s.reg s.x), []), ([0xF9, b], .ori b, s.d ||| b, [s.p]),
      ([0xF2], .and, s.d &&& s.memRead (s.reg s.x), []), ([0xFA, b], .ani b, s.d &&& b, [s.p]),
      ([0xF3], .xor, s.d ^^^ s.memRead (s.reg s.x), []), ([0xFB, b], .xri b, s.d ^^^ b, [s.p])] :
      List (List Byte × Instr × Byte × List Nib)),
    decode c.1 = .ok (c.2.1, []) ∧
    ∃ t, exec c.2.1 s = .next t ∧ t.d = c.2.2.1 ∧ s.OnlyDAndRegs t c.2.2.2 ∧
      (s.p ∈ c.2.2.2 → t.reg s.p = s.reg s.p + 1)

/-- 44_arithmetic_logic.md R168 to R171: `D_after = (D_before + operand + carry in) mod 256`, and DF is the carry out; the
carry in is 0 for ADD and ADI and DF for ADC and ADCI; nothing else changes but `R[P]` of an immediate form. -/
def Obligations.AdditionCarriesIntoDF : Prop :=
  ∀ (s : State) (b : Byte), ∀ c ∈ ([
      ([0xF4], .add, s.memRead (s.reg s.x), 0, []), ([0xFC, b], .adi b, b, 0, [s.p]),
      ([0x74], .adc, s.memRead (s.reg s.x), s.df.toNat, []), ([0x7C, b], .adci b, b, s.df.toNat, [s.p])] :
      List (List Byte × Instr × Byte × Nat × List Nib)),
    decode c.1 = .ok (c.2.1, []) ∧
    ∃ t, exec c.2.1 s = .next t ∧
      t.d.toNat = (s.d.toNat + c.2.2.1.toNat + c.2.2.2.1) % 256 ∧
      (t.df = true ↔ 256 ≤ s.d.toNat + c.2.2.1.toNat + c.2.2.2.1) ∧
      s.OnlyDDfAndRegs t c.2.2.2.2 ∧ (s.p ∈ c.2.2.2.2 → t.reg s.p = s.reg s.p + 1)

/-- 44_arithmetic_logic.md R172 to R179 (DF = 1 means no borrow: the spec's decision D26): each subtraction gives minuend
minus subtrahend minus borrow in, modulo 256, and DF = 1 exactly when no borrow occurs. SD forms subtract D from the
operand, SM forms the operand from D; the borrow in is 0, or 1 - DF for the borrow forms. -/
def Obligations.SubtractionBorrowsThroughDF : Prop :=
  ∀ (s : State) (b : Byte), ∀ c ∈ ([
      ([0xF5], .sd, s.memRead (s.reg s.x), s.d, 0, []), ([0xFD, b], .sdi b, b, s.d, 0, [s.p]),
      ([0x75], .sdb, s.memRead (s.reg s.x), s.d, 1 - s.df.toNat, []), ([0x7D, b], .sdbi b, b, s.d, 1 - s.df.toNat, [s.p]),
      ([0xF7], .sm, s.d, s.memRead (s.reg s.x), 0, []), ([0xFF, b], .smi b, s.d, b, 0, [s.p]),
      ([0x77], .smb, s.d, s.memRead (s.reg s.x), 1 - s.df.toNat, []), ([0x7F, b], .smbi b, s.d, b, 1 - s.df.toNat, [s.p])] :
      List (List Byte × Instr × Byte × Byte × Nat × List Nib)),
    decode c.1 = .ok (c.2.1, []) ∧
    ∃ t, exec c.2.1 s = .next t ∧
      (t.d.toNat : Int) = ((c.2.2.1.toNat : Int) - c.2.2.2.1.toNat - c.2.2.2.2.1) % 256 ∧
      (t.df = true ↔ c.2.2.2.1.toNat + c.2.2.2.2.1 ≤ c.2.2.1.toNat) ∧
      s.OnlyDDfAndRegs t c.2.2.2.2.2 ∧ (s.p ∈ c.2.2.2.2.2 → t.reg s.p = s.reg s.p + 1)

/-- 44_arithmetic_logic.md R180 to R183: each shift moves one bit position, the bit shifted out is the new DF, and the bit
shifted in is 0, or the old DF for SHRC and SHLC; nothing else changes. -/
def Obligations.ShiftsMoveOneBitThroughDF : Prop :=
  ∀ s : State, ∀ c ∈ ([
      (0xF6, .shr, s.d.toNat / 2, s.d.toNat % 2 = 1), (0x76, .shrc, s.d.toNat / 2 + 128 * s.df.toNat, s.d.toNat % 2 = 1),
      (0xFE, .shl, s.d.toNat * 2 % 256, 128 ≤ s.d.toNat),
      (0x7E, .shlc, s.d.toNat * 2 % 256 + s.df.toNat, 128 ≤ s.d.toNat)] : List (Byte × Instr × Nat × Prop)),
    decode [c.1] = .ok (c.2.1, []) ∧
    ∃ t, exec c.2.1 s = .next t ∧ t.d.toNat = c.2.2.1 ∧ (t.df = true ↔ c.2.2.2) ∧ s.OnlyDDfAndRegs t []

/-- 44_arithmetic_logic.md R181 and R183: SHRC and SHLC rotate the nine bits of D and DF; nine of either return the state to
what it was, and each undoes the other. -/
def Obligations.NineRotationsAreTheIdentity : Prop :=
  ∀ s : State,
    execTimes 9 .shrc s = .next s ∧ execTimes 9 .shlc s = .next s ∧
    (∀ t, exec .shrc s = .next t → exec .shlc t = .next s) ∧ (∀ t, exec .shlc s = .next t → exec .shrc t = .next s)

/-! ### Control -/

/-- 45_control.md R191 to R194: SEP, SEX, SEQ and REQ write P, X and Q and nothing else; the old program counter keeps its
advanced value. -/
def Obligations.PointersAndQAreSet : Prop :=
  ∀ (s : State) (n : Nib),
    (decode [BitVec.ofNat 8 (0xD0 + n.toNat)] = .ok (.sep n, []) ∧
      ∃ t, exec (.sep n) s = .next t ∧ t.p = n ∧ t.pc = s.reg n ∧ t = { s with p := t.p }) ∧
    (decode [BitVec.ofNat 8 (0xE0 + n.toNat)] = .ok (.sex n, []) ∧
      ∃ t, exec (.sex n) s = .next t ∧ t.x = n ∧ t = { s with x := t.x }) ∧
    (decode [0x7B] = .ok (.seq, []) ∧
      ∃ t, exec .seq s = .next t ∧ t.q = true ∧ t.qOut = !s.cfg.qInvert ∧ t = { s with q := t.q }) ∧
    (decode [0x7A] = .ok (.req, []) ∧
      ∃ t, exec .req s = .next t ∧ t.q = false ∧ t.qOut = s.cfg.qInvert ∧ t = { s with q := t.q })

/-- 45_control.md R195 and R196 (the spec's decisions D2 and D28): SAV stores T at `R[X]` and moves nothing; MARK saves
`X:P` in T and at `R[2]`, sets X to P and moves `R[2]` down; no other byte of memory and nothing else changes. -/
def Obligations.SavAndMarkStoreThePair : Prop :=
  ∀ s : State,
    (decode [0x78] = .ok (.sav, []) ∧
      ∃ t, exec .sav s = .next t ∧ t.memRead (s.reg s.x) = s.t ∧ s.OnlyByteAndRegs t (s.reg s.x) []) ∧
    (decode [0x79] = .ok (.mark, []) ∧
      ∃ t, exec .mark s = .next t ∧ t.t.toNat = 16 * s.x.toNat + s.p.toNat ∧ t.memRead (s.reg 2) = t.t ∧ t.x = s.p ∧
        t.reg 2 = s.reg 2 - 1 ∧ t = { s with t := t.t, mem := t.mem, x := t.x, r := t.r } ∧ s.RegsKept t [2] ∧
        s.MemKeptBut t (s.reg 2))

/-- 45_control.md R197 and R198 (the spec's decisions D2, D20 and D23): RET and DIS read the byte at `R[X]`, increment that
register, load X and P from the byte's nibbles and set or clear IE; they do not read T, and nothing else changes. -/
def Obligations.ReturnsLoadThePairFromMemory : Prop :=
  ∀ s : State, ∀ c ∈ ([(0x70, .ret, true), (0x71, .dis, false)] : List (Byte × Instr × Bool)),
    decode [c.1] = .ok (c.2.1, []) ∧
    ∃ t, exec c.2.1 s = .next t ∧ 16 * t.x.toNat + t.p.toNat = (s.memRead (s.reg s.x)).toNat ∧ t.ie = c.2.2 ∧
      t.reg s.x = s.reg s.x + 1 ∧ t = { s with x := t.x, p := t.p, ie := t.ie, r := t.r } ∧ s.RegsKept t [s.x] ∧
      s.MemKept t

/-- 45_control.md R190 and R199 (the spec's decisions D4 and D10): IDL sets IDLE; the reserved opcode 0x68 does nothing
under OP68_MODE = nop and acts as IDL under OP68_MODE = idle. -/
def Obligations.IdlAndTheReservedOpcode : Prop :=
  ∀ s : State,
    (decode [0x00] = .ok (.idl, []) ∧ exec .idl s = .next { s with idle := true }) ∧
    decode [0x68] = .ok (.reserved68, []) ∧ opcodeCost 0x68 = 2 ∧
    (s.cfg.op68Mode = .nop → exec .reserved68 s = .next s) ∧
    (s.cfg.op68Mode = .idle → exec .reserved68 s = .next { s with idle := true })

/-! ### Input and output -/

/-- 46_io.md R211 (the spec's decisions D5 and D6): OUT sends the memory byte at `R[X]` to its port's latch and increments
`R[X]`; the other latches, under `split` every input latch, and everything else are as before. -/
def Obligations.OutSendsMemoryToItsLatch : Prop :=
  ∀ (s : State) (port : Port),
    decode [BitVec.ofNat 8 (0x60 + port.number)] = .ok (.out port, []) ∧ opcodeCost (BitVec.ofNat 8 (0x60 + port.number)) = 2 ∧
    ∃ t, exec (.out port) s = .next t ∧ t.portOut port = s.memRead (s.reg s.x) ∧
      (∀ o, o ≠ port → t.portOut o = s.portOut o ∧ t.portIn o = s.portIn o) ∧
      (s.latches.model = .shared → t.portIn port = s.memRead (s.reg s.x)) ∧
      (s.latches.model = .split → t.portIn port = s.portIn port) ∧ t.latches.model = s.latches.model ∧
      t.reg s.x = s.reg s.x + 1 ∧ t = { s with latches := t.latches, r := t.r } ∧ s.RegsKept t [s.x] ∧ s.MemKept t

/-- 46_io.md R212: INP stores the byte of its port's latch at `R[X]` and in D; `R[X]`, the latches and everything else are
as before. -/
def Obligations.InpStoresItsLatchInMemoryAndD : Prop :=
  ∀ (s : State) (port : Port),
    decode [BitVec.ofNat 8 (0x68 + port.number)] = .ok (.inp port, []) ∧ opcodeCost (BitVec.ofNat 8 (0x68 + port.number)) = 2 ∧
    (∀ v, s.latches = .shared v → s.portIn port = s.portOut port) ∧
    (∀ o i, s.latches = .split o i → s.portIn port = latchGet i port) ∧
    ∃ t, exec (.inp port) s = .next t ∧ t.d = s.portIn port ∧ t.memRead (s.reg s.x) = s.portIn port ∧
      t = { s with d := t.d, mem := t.mem } ∧ s.MemKeptBut t (s.reg s.x)

/-! ### Rules of the whole machine -/

/-- 10_state.md R22: "No other instruction changes it": DF is written only by the adds, the subtracts and the shifts. -/
def Obligations.OnlyArithmeticAndShiftsWriteDF : Prop :=
  ∀ (i : Instr) (s t : State), exec i s = .next t → t.df ≠ s.df →
    i ∈ [Instr.add, .adc, .sd, .sdb, .sm, .smb, .shr, .shrc, .shl, .shlc] ∨
    ∃ b, i ∈ [Instr.adi b, .adci b, .sdi b, .sdbi b, .smi b, .smbi b]

/-- 10_state.md R24 to R30 and 46_io.md R213: which instructions may write P, X, T, IE, Q, IDLE and the latches; none
writes the flag lines or the parameters. -/
def Obligations.WhoWritesTheControlState : Prop :=
  ∀ (i : Instr) (s t : State), exec i s = .next t →
    (t.p ≠ s.p → (∃ n, i = .sep n) ∨ i = .ret ∨ i = .dis) ∧
    (t.x ≠ s.x → (∃ n, i = .sex n) ∨ i = .mark ∨ i = .ret ∨ i = .dis) ∧
    (t.t ≠ s.t → i = .mark) ∧ (t.ie ≠ s.ie → i = .ret ∨ i = .dis) ∧ (t.q ≠ s.q → i = .seq ∨ i = .req) ∧
    (t.idle ≠ s.idle → i = .idl ∨ (i = .reserved68 ∧ s.cfg.op68Mode = .idle)) ∧
    (t.latches ≠ s.latches → ∃ port, i = .out port) ∧ t.ef = s.ef ∧ t.cfg = s.cfg

/-- 20_memory.md R63: memory changes only by the stores of STR, STXD, INP, SAV and MARK, by host pokes and by the image
load; the event scheduler never reads or writes it. -/
def Obligations.WhoWritesMemory : Prop :=
  (∀ (i : Instr) (s t : State), exec i s = .next t → t.mem ≠ s.mem →
    (∃ n, i = .str n) ∨ i = .stxd ∨ (∃ port, i = .inp port) ∨ i = .sav ∨ i = .mark) ∧
  (∀ (s : State) (m : Memory), ({ s with mem := m } : State).applyEvents = { s.applyEvents with mem := m }) ∧
  (∀ (s t : State), step s = .next t → t.mem ≠ s.mem →
    s.interruptTaken = false ∧ s.idle = false ∧ ∃ u, exec s.fetchInstr s.afterFetch = .next u ∧ t.mem = u.mem) ∧
  (∀ (s t : State) (c : HostCommand), hostStep s c = .next t → t.mem ≠ s.mem →
    c = .stepOne ∨ ∃ a v, c = .poke (.mem a v))
end

