-- ==== Sys2Proof/Laws/Fields.lean ====
section
/-! SUPPORT. The fields of bytes and words as numbers, and that taking apart and putting together are inverse. -/

namespace Sys2Proof

@[simp] theorem hiByte_toNat (w : Word) : (hiByte w).toNat = w.toNat / 256 := by
  have := w.isLt
  simp only [hiByte, BitVec.extractLsb'_toNat, Nat.shiftRight_eq_div_pow]
  omega

@[simp] theorem loByte_toNat (w : Word) : (loByte w).toNat = w.toNat % 256 := by
  simp [loByte]

@[simp] theorem bytePair_toNat (h l : Byte) : (bytePair h l).toNat = h.toNat * 256 + l.toNat := by
  have := l.isLt
  rw [bytePair, BitVec.toNat_append, ← Nat.shiftLeft_add_eq_or_of_lt l.isLt, Nat.shiftLeft_eq]

@[simp] theorem hiNib_toNat (b : Byte) : (hiNib b).toNat = b.toNat / 16 := by
  have := b.isLt
  simp only [hiNib, BitVec.extractLsb'_toNat, Nat.shiftRight_eq_div_pow]
  omega

@[simp] theorem loNib_toNat (b : Byte) : (loNib b).toNat = b.toNat % 16 := by
  simp [loNib]

@[simp] theorem nibPair_toNat (h l : Nib) : (nibPair h l).toNat = h.toNat * 16 + l.toNat := by
  rw [nibPair, BitVec.toNat_append, ← Nat.shiftLeft_add_eq_or_of_lt l.isLt, Nat.shiftLeft_eq]

@[simp] theorem bytePair_hiByte_loByte (w : Word) : bytePair (hiByte w) (loByte w) = w := by
  apply BitVec.eq_of_toNat_eq
  simp only [bytePair_toNat, hiByte_toNat, loByte_toNat]
  omega

@[simp] theorem hiByte_bytePair (h l : Byte) : hiByte (bytePair h l) = h := by
  have := l.isLt
  apply BitVec.eq_of_toNat_eq
  simp only [hiByte_toNat, bytePair_toNat]
  omega

@[simp] theorem loByte_bytePair (h l : Byte) : loByte (bytePair h l) = l := by
  have := l.isLt
  apply BitVec.eq_of_toNat_eq
  simp only [loByte_toNat, bytePair_toNat]
  omega

@[simp] theorem hiNib_nibPair (h l : Nib) : hiNib (nibPair h l) = h := by
  have := l.isLt
  apply BitVec.eq_of_toNat_eq
  simp only [hiNib_toNat, nibPair_toNat]
  omega

@[simp] theorem loNib_nibPair (h l : Nib) : loNib (nibPair h l) = l := by
  have := l.isLt
  apply BitVec.eq_of_toNat_eq
  simp only [loNib_toNat, nibPair_toNat]
  omega

@[simp] theorem nibPair_hiNib_loNib (b : Byte) : nibPair (hiNib b) (loNib b) = b := by
  apply BitVec.eq_of_toNat_eq
  simp only [nibPair_toNat, hiNib_toNat, loNib_toNat]
  omega

end Sys2Proof
end

