-- ==== Sys2Proof/Laws/Decode.lean ====
section
/-! SUPPORT. Facts about decoding: a property of every byte by its 256 cases, the bytes `decodeOp` does not look at, and
what three bytes in memory decode to. -/

namespace Sys2Proof

theorem forall_nib {p : Nib → Prop} (h : ∀ k : Nat, k < 16 → p (BitVec.ofNat 4 k)) (n : Nib) : p n := by
  have := h n.toNat n.isLt
  rwa [BitVec.ofNat_toNat, BitVec.setWidth_eq] at this

theorem forall_byte {p : Byte → Prop} (h : ∀ k : Nat, k < 256 → p (BitVec.ofNat 8 k)) (b : Byte) : p b := by
  have := h b.toNat b.isLt
  rwa [BitVec.ofNat_toNat, BitVec.setWidth_eq] at this

/-- A one-byte instruction does not depend on the bytes after it. -/
theorem decodeOp_one (op b1 b2 c1 c2 : Byte) (h : instrLength op = 1) : decodeOp op b1 b2 = decodeOp op c1 c2 := by
  revert h
  refine forall_byte (p := fun op => instrLength op = 1 → decodeOp op b1 b2 = decodeOp op c1 c2) (fun k hk => ?_) op
  interval_cases k <;> first | exact fun _ => rfl | exact fun h => absurd h (by decide)

/-- A two-byte instruction does not depend on the byte after it. -/
theorem decodeOp_two (op b1 b2 c2 : Byte) (h : instrLength op = 2) : decodeOp op b1 b2 = decodeOp op b1 c2 := by
  revert h
  refine forall_byte (p := fun op => instrLength op = 2 → decodeOp op b1 b2 = decodeOp op b1 c2) (fun k hk => ?_) op
  interval_cases k <;> first | exact fun _ => rfl | exact fun h => absurd h (by decide)

theorem instrLength_cases (op : Byte) : instrLength op = 1 ∨ instrLength op = 2 ∨ instrLength op = 3 := by
  unfold instrLength
  split_ifs <;> simp

/-- Three bytes always decode, to `decodeOp` of them; what is left is what the length says. -/
theorem decode_three (op b1 b2 : Byte) (rest : List Byte) :
    decode (op :: b1 :: b2 :: rest) =
      .ok (decodeOp op b1 b2, (b1 :: b2 :: rest).drop (instrLength op - 1)) := by
  rcases instrLength_cases op with h | h | h
  · simp [decode, h, decodeOp_one op b1 b2 0 0 h]
  · simp [decode, h, decodeOp_two op b1 b2 0 h]
  · simp [decode, h]

/-- A one-byte instruction decodes from its opcode byte, and leaves the rest. -/
theorem decode_one {op : Byte} (rest : List Byte) (h : instrLength op = 1) :
    decode (op :: rest) = .ok (decodeOp op 0 0, rest) := by
  simp [decode, h]

/-- A two-byte instruction decodes from its two bytes, and leaves the rest. -/
theorem decode_two {op : Byte} (b1 : Byte) (rest : List Byte) (h : instrLength op = 2) :
    decode (op :: b1 :: rest) = .ok (decodeOp op b1 0, rest) := by
  simp [decode, h]

/-- A three-byte instruction decodes from its three bytes, and leaves the rest. -/
theorem decode_long {op : Byte} (b1 b2 : Byte) (rest : List Byte) (h : instrLength op = 3) :
    decode (op :: b1 :: b2 :: rest) = .ok (decodeOp op b1 b2, rest) := by
  simp [decode, h]

/-! ### What `decodeOp` answers -/

/-- The opcode map has an instruction of the hardware at every opcode byte. -/
theorem decodeOp_wf (op : Byte) : ∀ b1 b2, (decodeOp op b1 b2).wf = true := by
  refine forall_byte (p := fun op => ∀ b1 b2, (decodeOp op b1 b2).wf = true) (fun k hk b1 b2 => ?_) op
  interval_cases k <;> rfl

/-- The opcode map's instruction has the opcode byte it stands at. -/
theorem decodeOp_opcode (op : Byte) : ∀ b1 b2, (decodeOp op b1 b2).opcode = op := by
  refine forall_byte (p := fun op => ∀ b1 b2, (decodeOp op b1 b2).opcode = op) (fun k hk b1 b2 => ?_) op
  interval_cases k <;> rfl

/-- The opcode map's instruction carries as many of the bytes after the opcode as its length says. -/
theorem decodeOp_operandBytes (op : Byte) :
    ∀ b1 b2, (decodeOp op b1 b2).operandBytes = ([b1, b2]).take (instrLength op - 1) := by
  refine forall_byte (p := fun op => ∀ b1 b2, (decodeOp op b1 b2).operandBytes = ([b1, b2]).take (instrLength op - 1))
    (fun k hk b1 b2 => ?_) op
  interval_cases k <;> first
    | rfl
    | exact congrArg₂ (fun h l => [h, l]) (hiByte_bytePair b1 b2) (loByte_bytePair b1 b2)

end Sys2Proof
end

