-- ==== Sys2Proof/Laws/EventLog.lean ====
section
/-! SUPPORT. What each function over the event log's text accepts: one lemma per function, as an equivalence with the
words of Safety.lean, so that no proof unfolds a parser. -/

namespace Sys2Proof.Machine

/-! ### Cutting a text -/

theorem splitAtChar_ne_nil (sep : Char) (l : List Char) : splitAtChar sep l ≠ [] := by
  cases l with
  | nil => simp [splitAtChar]
  | cons c cs => unfold splitAtChar; split <;> [simp; split <;> simp]

theorem splitAtChar_of_notMem {sep : Char} {l : List Char} (h : sep ∉ l) : splitAtChar sep l = [l] := by
  induction l with
  | nil => rfl
  | cons c cs ih =>
    obtain ⟨hc, hcs⟩ := not_or.mp (mt List.mem_cons.mpr h)
    simp [splitAtChar, Ne.symm hc, ih hcs]

theorem splitAtChar_append {sep : Char} {piece : List Char} (h : sep ∉ piece) (rest : List Char) :
    splitAtChar sep (piece ++ sep :: rest) = piece :: splitAtChar sep rest := by
  induction piece with
  | nil => simp [splitAtChar]
  | cons c cs ih =>
    obtain ⟨hc, hcs⟩ := not_or.mp (mt List.mem_cons.mpr h)
    simp [splitAtChar, Ne.symm hc, ih hcs]

/-- The first piece is what stands before the first separator, or the whole text. -/
theorem splitAtChar_eq_cons_iff {sep : Char} {l piece : List Char} {pieces : List (List Char)} :
    splitAtChar sep l = piece :: pieces ↔
      sep ∉ piece ∧ ((pieces = [] ∧ l = piece) ∨ ∃ rest, l = piece ++ sep :: rest ∧ splitAtChar sep rest = pieces) := by
  constructor
  · by_cases h : sep ∈ l
    · obtain ⟨a, b, rfl, ha⟩ := List.eq_append_cons_of_mem h
      rw [splitAtChar_append ha]
      rintro h
      obtain ⟨rfl, rfl⟩ := List.cons.inj h
      exact ⟨ha, .inr ⟨b, rfl, rfl⟩⟩
    · rw [splitAtChar_of_notMem h]
      rintro h'
      obtain ⟨rfl, rfl⟩ := List.cons.inj h'
      exact ⟨h, .inl ⟨rfl, rfl⟩⟩
  · rintro ⟨h, ⟨rfl, rfl⟩ | ⟨rest, rfl, rfl⟩⟩
    · exact splitAtChar_of_notMem h
    · exact splitAtChar_append h rest

/-! ### The fields of a line -/

theorem decimalDigit_eq_some_iff {c : Char} {v : Nat} :
    decimalDigit c = some v ↔ c ∈ ['0', '1', '2', '3', '4', '5', '6', '7', '8', '9'] ∧ v = c.toNat - '0'.toNat := by
  have hc : c ∈ ['0', '1', '2', '3', '4', '5', '6', '7', '8', '9'] ↔ 48 ≤ c.toNat ∧ c.toNat ≤ 57 := by
    constructor
    · intro h
      simp only [List.mem_cons, List.not_mem_nil, or_false] at h
      rcases h with rfl | rfl | rfl | rfl | rfl | rfl | rfl | rfl | rfl | rfl <;> decide
    · rintro ⟨h1, h2⟩
      rw [← Char.ofNat_toNat c]
      generalize c.toNat = n at h1 h2
      interval_cases n <;> decide
  rw [hc]
  have h48 : '0'.toNat = 48 := rfl
  unfold decimalDigit
  split <;> simp_all [eq_comm]

theorem decimalFrom_eq_some_iff {start v : Nat} {text : List Char} :
    decimalFrom start text = some v ↔ (∀ c ∈ text, c ∈ ['0', '1', '2', '3', '4', '5', '6', '7', '8', '9']) ∧
      text.foldl (fun value c => 10 * value + (c.toNat - '0'.toNat)) start = v := by
  induction text generalizing start with
  | nil => simp [decimalFrom]
  | cons c cs ih =>
    unfold decimalFrom
    cases hd : decimalDigit c with
    | none =>
      have : c ∉ ['0', '1', '2', '3', '4', '5', '6', '7', '8', '9'] := fun h => by simp [decimalDigit_eq_some_iff.mpr ⟨h, rfl⟩] at hd
      simp only [reduceCtorEq, List.forall_mem_cons, this, false_and]
    | some k =>
      obtain ⟨hc, rfl⟩ := decimalDigit_eq_some_iff.mp hd
      simp only [ih, List.forall_mem_cons, hc, true_and, List.foldl_cons, Nat.mul_comm start 10]

/-- A time is one or more decimal digits of that value. -/
theorem parseTime_eq_some_iff {text : List Char} {time : Fin (2 ^ 64)} :
    parseTime text = some time ↔ IsDecimal text ∧ decimalValue text = time.val := by
  cases text with
  | nil => simp [parseTime, IsDecimal]
  | cons c cs =>
    have hfrom : IsDecimal (c :: cs) ∧ decimalValue (c :: cs) = time.val ↔ decimalFrom 0 (c :: cs) = some time.val := by
      simp [decimalFrom_eq_some_iff, IsDecimal, decimalValue]
    rw [hfrom, parseTime]
    have := time.isLt
    cases decimalFrom 0 (c :: cs) with
    | none => simp
    | some v =>
      by_cases h : v < 2 ^ 64
      · simp only [h, dif_pos, Option.some.injEq, Fin.ext_iff]
      · simp only [h, dif_neg, not_false_eq_true, Option.some.injEq, reduceCtorEq, false_iff]
        omega

theorem IsHexDigit.lt {c : Char} {v : Nat} (h : IsHexDigit c v) : v < 16 := by
  rcases h with h | h <;> exact (List.getElem?_eq_some_iff.mp h).1

theorem hexDigit_eq_some_iff {c : Char} {v : Nat} : hexDigit c = some v ↔ IsHexDigit c v := by
  constructor
  · intro h
    rw [← Char.ofNat_toNat c]
    unfold hexDigit at h
    generalize c.toNat = n at h
    split_ifs at h <;> cases h <;> rename_i hn <;> obtain ⟨h1, h2⟩ := hn <;> interval_cases n <;> unfold IsHexDigit <;>
      first | exact .inl rfl | exact .inr rfl
  · intro h
    have hv := h.lt
    unfold IsHexDigit at h
    interval_cases v <;> rcases h with h | h <;> cases h <;> rfl

theorem parseEfLine_eq_some_iff {text : List Char} {line : EfLine} :
    parseEfLine text = some line ↔ text = ['e', 'f', Char.ofNat (48 + line.number)] := by
  constructor
  · intro h; unfold parseEfLine at h; split at h <;> cases h <;> rfl
  · rintro rfl; cases line <;> rfl

theorem parsePort_eq_some_iff {text : List Char} {port : Port} :
    parsePort text = some port ↔ text = ['i', 'o', Char.ofNat (48 + port.number)] := by
  constructor
  · intro h; unfold parsePort at h; split at h <;> cases h <;> rfl
  · rintro rfl; cases port <;> rfl

theorem parseFlagValue_eq_some_iff {text : List Char} {value : Bool} :
    parseFlagValue text = some value ↔ text = [if value then '1' else '0'] := by
  constructor
  · intro h; unfold parseFlagValue at h; split at h <;> cases h <;> rfl
  · rintro rfl; cases value <;> rfl

theorem parseHexByte_eq_some_iff {text : List Char} {b : Byte} :
    parseHexByte text = some b ↔
      ∃ h l vh vl, text = [h, l] ∧ IsHexDigit h vh ∧ IsHexDigit l vl ∧ b.toNat = 16 * vh + vl := by
  constructor
  · intro hb
    unfold parseHexByte at hb
    split at hb
    · split at hb
      · rename_i h l _ _ vh vl h1 h2
        cases hb
        have h1 := hexDigit_eq_some_iff.mp h1
        have h2 := hexDigit_eq_some_iff.mp h2
        have := h1.lt
        have := h2.lt
        exact ⟨h, l, vh, vl, rfl, h1, h2, by simp; omega⟩
      · cases hb
    · cases hb
  · rintro ⟨h, l, vh, vl, rfl, h1, h2, hb⟩
    have := h1.lt
    have := h2.lt
    simp only [parseHexByte, hexDigit_eq_some_iff.mpr h1, hexDigit_eq_some_iff.mpr h2, Option.some.injEq]
    exact BitVec.eq_of_toNat_eq (by simp; omega)

/-! ### The lines of a log -/

@[simp] theorem joinLines_nil : joinLines [] = [] := rfl

@[simp] theorem joinLines_cons (line : List Char) (lines : List (List Char)) :
    joinLines (line :: lines) = line ++ '\n' :: joinLines lines := by simp [joinLines]

theorem joinLines_eq_nil_iff {lines : List (List Char)} : joinLines lines = [] ↔ lines = [] := by
  cases lines <;> simp

theorem dropEmptyLast_cons (line : List Char) {lines : List (List Char)} (h : lines ≠ []) :
    dropEmptyLast (line :: lines) = line :: dropEmptyLast lines := by
  obtain ⟨a, l, rfl⟩ := List.exists_cons_of_ne_nil h
  cases line <;> rfl

/-- The pieces of a text, less an empty last one, are its lines. -/
theorem isLinesOf_dropEmptyLast (text : List Char) : IsLinesOf (dropEmptyLast (splitAtChar '\n' text)) text := by
  generalize hp : splitAtChar '\n' text = pieces
  induction pieces generalizing text with
  | nil => exact absurd hp (splitAtChar_ne_nil _ _)
  | cons a rest ih =>
    obtain ⟨ha, ⟨rfl, rfl⟩ | ⟨text', rfl, hs⟩⟩ := splitAtChar_eq_cons_iff.mp hp
    · cases text with
      | nil => exact ⟨by simp [dropEmptyLast], .inl rfl⟩
      | cons c cs => exact ⟨by simpa [dropEmptyLast] using ha, .inr ⟨by simp [dropEmptyLast], by simp [dropEmptyLast]⟩⟩
    · rw [dropEmptyLast_cons a (hs ▸ splitAtChar_ne_nil _ _)]
      obtain ⟨hn, hj⟩ := ih text' hs
      refine ⟨List.forall_mem_cons.mpr ⟨ha, hn⟩, ?_⟩
      rcases hj with hj | ⟨hj, hl⟩
      · exact .inl (by rw [joinLines_cons, ← hj])
      · have hne : dropEmptyLast rest ≠ [] := fun h => by simp [h] at hj
        refine .inr ⟨by simp [← hj], ?_⟩
        rwa [List.getLast?_cons_of_ne_nil hne]

/-- A text has one list of lines. -/
theorem IsLinesOf.eq {lines : List (List Char)} {text : List Char} (h : IsLinesOf lines text) :
    dropEmptyLast (splitAtChar '\n' text) = lines := by
  induction lines generalizing text with
  | nil =>
    rcases h.2 with rfl | ⟨h, -⟩
    · rfl
    · simp at h
  | cons a ls ih =>
    obtain ⟨ha, hls⟩ := List.forall_mem_cons.mp h.1
    have step : ∀ text', IsLinesOf ls text' → dropEmptyLast (splitAtChar '\n' (a ++ '\n' :: text')) = a :: ls := fun text' h' => by
      rw [splitAtChar_append ha, dropEmptyLast_cons a (splitAtChar_ne_nil _ _), ih h']
    rcases h.2 with rfl | ⟨hj, hl⟩
    · rw [joinLines_cons]
      exact step _ ⟨hls, .inl rfl⟩
    · by_cases hne : ls = []
      · subst hne
        have ht : text = a := by simpa using hj
        subst ht
        rw [splitAtChar_of_notMem ha]
        cases text with
        | nil => simp at hl
        | cons c cs => rfl
      · have hjl : joinLines ls ≠ [] := fun h => hne (joinLines_eq_nil_iff.mp h)
        rw [joinLines_cons, ← List.dropLast_append_getLast hjl] at hj
        have hj : text ++ ['\n'] = (a ++ '\n' :: (joinLines ls).dropLast) ++ [(joinLines ls).getLast hjl] := by simpa using hj
        obtain ⟨rfl, hlast⟩ := List.append_inj' hj rfl
        refine step _ ⟨hls, .inr ⟨?_, by rwa [List.getLast?_cons_of_ne_nil hne] at hl⟩⟩
        rw [hlast, List.dropLast_append_getLast]

theorem parseLines_eq_ok_iff {number : Nat} {lines : List (List Char)} {events : List Event} :
    parseLines number lines = .ok events ↔ lines.map parseLine = events.map .ok := by
  induction lines generalizing number events with
  | nil => cases events <;> simp [parseLines]
  | cons line lines ih =>
    unfold parseLines
    cases hl : parseLine line with
    | bad why => cases events <;> simp [hl]
    | ok e =>
      cases events with
      | nil => cases parseLines (number + 1) lines <;> simp
      | cons e' es' =>
        rw [List.map_cons, List.map_cons, List.cons.injEq, hl, ← @ih (number + 1) es']
        cases parseLines (number + 1) lines <;> simp

/-- The first line that is not accepted is reported with its number. -/
theorem parseLines_eq_bad {line : List Char} {why : LineProblem} (after : List (List Char)) (hbad : parseLine line = .bad why)
    {before : List (List Char)} (hok : ∀ l ∈ before, ∃ e, parseLine l = .ok e) (number : Nat) :
    parseLines number (before ++ line :: after) = .bad (number + before.length, why) := by
  induction before generalizing number with
  | nil => simp [parseLines, hbad]
  | cons b before ih =>
    obtain ⟨⟨e, he⟩, hok⟩ := List.forall_mem_cons.mp hok
    rw [List.cons_append, parseLines, he, ih hok, List.length_cons, Nat.add_right_comm, Nat.add_assoc]

end Sys2Proof.Machine
end

