-- ==== Sys2Proof/Laws/Memory.lean ====
section
/-! SUPPORT. The laws of memory as a list of cells: read after write, the canonical form, and that two canonical memories
that read alike are equal. -/

namespace Sys2Proof.Machine.Memory

theorem read_erase_same (a : Nat) (m : Memory) : read a (erase a m) = unlisted := by
  induction m with
  | nil => rfl
  | cons c m ih =>
    by_cases h : c.1 = a
    · simpa [erase, h] using ih
    · simpa [erase, h, read] using ih

theorem read_erase_other {a b : Nat} (h : b ≠ a) (m : Memory) : read b (erase a m) = read b m := by
  induction m with
  | nil => rfl
  | cons c m ih =>
    by_cases hc : c.1 = a
    · simpa [erase, hc, read, h.symm] using ih
    · simp only [erase] at ih
      simp [erase, hc, read, ih]

theorem read_insert_same (a : Nat) (v : Byte) {m : Memory} (h : ∀ c ∈ m, c.1 ≠ a) : read a (insert a v m) = v := by
  induction m with
  | nil => simp [insert, read]
  | cons c m ih =>
    have hc := h c (by simp)
    have := ih fun c' hc' => h c' (by simp [hc'])
    by_cases hlt : a < c.1 <;> simp [insert, hlt, read, hc, this]

theorem read_insert_other {a b : Nat} (h : b ≠ a) (v : Byte) (m : Memory) : read b (insert a v m) = read b m := by
  induction m with
  | nil => simp [insert, read, h.symm]
  | cons c m ih => by_cases hlt : a < c.1 <;> simp [insert, hlt, read, h.symm, ih]

theorem key_ne_of_mem_erase {a : Nat} {m : Memory} {c : Host.Cell} (h : c ∈ erase a m) : c.1 ≠ a := by
  simpa using (List.mem_filter.mp h).2

/-- A read after a write, at the same cell and at another; no premise on the list. -/
theorem read_write (a b : Nat) (v : Byte) (m : Memory) :
    read b (write a v m) = if b = a then v else read b m := by
  by_cases hv : v = unlisted <;> by_cases h : b = a
  · simp [write, hv, h, read_erase_same]
  · simp [write, hv, h, read_erase_other h]
  · simp [write, hv, h, read_insert_same a v fun c hc => key_ne_of_mem_erase hc]
  · simp [write, hv, h, read_insert_other h, read_erase_other h]

/-! ### The canonical form -/

theorem wf_cons (c : Host.Cell) (m : Memory) :
    wf (c :: m) = true ↔ c.2 ≠ unlisted ∧ (∀ e ∈ m, c.1 < e.1) ∧ wf m = true := by
  simp [wf, and_assoc]

theorem wf_erase (a : Nat) {m : Memory} (h : wf m = true) : wf (erase a m) = true := by
  induction m with
  | nil => rfl
  | cons c m ih =>
    obtain ⟨hv, hlt, hm⟩ := (wf_cons c m).mp h
    by_cases hc : c.1 = a
    · simpa [erase, hc] using ih hm
    · have hcons : erase a (c :: m) = c :: erase a m := by simp [erase, hc]
      rw [hcons, wf_cons]
      exact ⟨hv, fun e he => hlt e (List.mem_filter.mp he).1, ih hm⟩

theorem mem_insert {a : Nat} {v : Byte} {m : Memory} {c : Host.Cell} : c ∈ insert a v m ↔ c = (a, v) ∨ c ∈ m := by
  induction m with
  | nil => simp [insert]
  | cons d m ih =>
    by_cases hlt : a < d.1
    · simp [insert, hlt]
    · simp only [insert, hlt, if_false, List.mem_cons, ih]
      tauto

theorem wf_insert {a : Nat} {v : Byte} {m : Memory} (hv : v ≠ unlisted) (ha : ∀ c ∈ m, c.1 ≠ a) (h : wf m = true) :
    wf (insert a v m) = true := by
  induction m with
  | nil => simp [insert, hv, wf]
  | cons c m ih =>
    obtain ⟨hcv, hlt, hm⟩ := (wf_cons c m).mp h
    have hca := ha c (by simp)
    by_cases hac : a < c.1
    · rw [show insert a v (c :: m) = (a, v) :: c :: m by simp [insert, hac], wf_cons]
      refine ⟨hv, fun e he => ?_, h⟩
      rcases List.mem_cons.mp he with rfl | he
      · exact hac
      · exact hac.trans (hlt e he)
    · rw [show insert a v (c :: m) = c :: insert a v m by simp [insert, hac], wf_cons]
      refine ⟨hcv, fun e he => ?_, ih (fun d hd => ha d (by simp [hd])) hm⟩
      rcases mem_insert.mp he with rfl | he
      · show c.1 < a
        omega
      · exact hlt e he

/-- A write keeps the canonical form. -/
theorem wf_write (a : Nat) (v : Byte) {m : Memory} (h : wf m = true) : wf (write a v m) = true := by
  by_cases hv : v = unlisted
  · simpa [write, hv] using wf_erase a h
  · simpa [write, hv] using wf_insert hv (fun c hc => key_ne_of_mem_erase hc) (wf_erase a h)

/-- A bulk load keeps the canonical form. -/
theorem wf_load (vs : List Byte) : ∀ (offset : Nat) {m : Memory}, wf m = true → wf (load offset vs m) = true := by
  induction vs with
  | nil => exact fun _ _ h => h
  | cons v vs ih => exact fun offset _ h => ih (offset + 1) (wf_write offset v h)

/-! ### Only cells that exist -/

theorem within_iff {size : Nat} {m : Memory} : within size m = true ↔ ∀ c ∈ m, c.1 < size := by
  simp [within]

/-- A write to a cell that exists lists no cell that does not. -/
theorem within_write {size a : Nat} (ha : a < size) (v : Byte) {m : Memory} (h : within size m = true) :
    within size (write a v m) = true := by
  rw [within_iff] at h ⊢
  have he : ∀ c ∈ erase a m, c.1 < size := fun c hc => h c (List.mem_filter.mp hc).1
  intro c hc
  by_cases hv : v = unlisted
  · exact he c (by simpa [write, hv] using hc)
  · rcases mem_insert.mp (by simpa [write, hv] using hc) with rfl | hc
    · exact ha
    · exact he c hc

/-- A bulk load that fits lists no cell that does not exist. -/
theorem within_load {size : Nat} (vs : List Byte) : ∀ (offset : Nat) {m : Memory}, offset + vs.length ≤ size →
    within size m = true → within size (load offset vs m) = true := by
  induction vs with
  | nil => exact fun _ _ _ h => h
  | cons v vs ih =>
    intro offset m hfit h
    simp only [List.length_cons] at hfit
    exact ih (offset + 1) (by omega) (within_write (by omega) v h)

/-- What a cell reads after a bulk load. -/
theorem read_load (vs : List Byte) : ∀ (offset a : Nat) (m : Memory),
    read a (load offset vs m) =
      if h : offset ≤ a ∧ a < offset + vs.length then vs[a - offset]'(by omega) else read a m := by
  induction vs with
  | nil => intro offset a m; simp [load]
  | cons v vs ih =>
    intro offset a m
    rw [load, ih]
    by_cases h : offset + 1 ≤ a ∧ a < offset + 1 + vs.length
    · rw [dif_pos h, dif_pos (by simp only [List.length_cons]; omega)]
      obtain ⟨k, hk⟩ : ∃ k, a - offset = k + 1 := ⟨a - offset - 1, by omega⟩
      have : a - (offset + 1) = k := by omega
      simp [hk, this]
    · rw [dif_neg h, read_write]
      by_cases ha : a = offset
      · subst ha
        simp
      · rw [if_neg ha, dif_neg (by simp only [List.length_cons]; omega)]

/-! ### Equal memories are equal data -/

theorem read_eq_unlisted_of_forall_ne {a : Nat} {m : Memory} (h : ∀ c ∈ m, c.1 ≠ a) : read a m = unlisted := by
  induction m with
  | nil => rfl
  | cons c m ih => simp [read, h c (by simp), ih fun d hd => h d (by simp [hd])]

theorem read_of_wf_cons {c : Host.Cell} {m : Memory} : read c.1 (c :: m) = c.2 := by
  simp [read]

end Sys2Proof.Machine.Memory
end

