-- ==== Sys2Proof/Laws/State.lean ====
section
/-! SUPPORT. What each update of the state does to each field: one lemma a pair, true by unfolding. -/

namespace Sys2Proof.Machine.State

variable (s : State)

@[simp] theorem memWrite_cfg (a : Word) (v : Byte) : (s.memWrite a v).cfg = s.cfg := rfl
@[simp] theorem memWrite_d (a : Word) (v : Byte) : (s.memWrite a v).d = s.d := rfl
@[simp] theorem memWrite_df (a : Word) (v : Byte) : (s.memWrite a v).df = s.df := rfl
@[simp] theorem memWrite_r (a : Word) (v : Byte) : (s.memWrite a v).r = s.r := rfl
@[simp] theorem memWrite_p (a : Word) (v : Byte) : (s.memWrite a v).p = s.p := rfl
@[simp] theorem memWrite_x (a : Word) (v : Byte) : (s.memWrite a v).x = s.x := rfl
@[simp] theorem memWrite_t (a : Word) (v : Byte) : (s.memWrite a v).t = s.t := rfl
@[simp] theorem memWrite_ie (a : Word) (v : Byte) : (s.memWrite a v).ie = s.ie := rfl
@[simp] theorem memWrite_q (a : Word) (v : Byte) : (s.memWrite a v).q = s.q := rfl
@[simp] theorem memWrite_ef (a : Word) (v : Byte) : (s.memWrite a v).ef = s.ef := rfl
@[simp] theorem memWrite_latches (a : Word) (v : Byte) : (s.memWrite a v).latches = s.latches := rfl
@[simp] theorem memWrite_mem (a : Word) (v : Byte) : (s.memWrite a v).mem = s.mem.write (s.cellOf a) v := rfl
@[simp] theorem memWrite_intPending (a : Word) (v : Byte) : (s.memWrite a v).intPending = s.intPending := rfl
@[simp] theorem memWrite_idle (a : Word) (v : Byte) : (s.memWrite a v).idle = s.idle := rfl
@[simp] theorem memWrite_cycles (a : Word) (v : Byte) : (s.memWrite a v).cycles = s.cycles := rfl
@[simp] theorem memWrite_queue (a : Word) (v : Byte) : (s.memWrite a v).queue = s.queue := rfl
@[simp] theorem memWrite_run (a : Word) (v : Byte) : (s.memWrite a v).run = s.run := rfl

@[simp] theorem setReg_cfg (n : Nib) (v : Word) : (s.setReg n v).cfg = s.cfg := rfl
@[simp] theorem setReg_d (n : Nib) (v : Word) : (s.setReg n v).d = s.d := rfl
@[simp] theorem setReg_df (n : Nib) (v : Word) : (s.setReg n v).df = s.df := rfl
@[simp] theorem setReg_r (n : Nib) (v : Word) : (s.setReg n v).r = s.r.set n.toNat v n.isLt := rfl
@[simp] theorem setReg_p (n : Nib) (v : Word) : (s.setReg n v).p = s.p := rfl
@[simp] theorem setReg_x (n : Nib) (v : Word) : (s.setReg n v).x = s.x := rfl
@[simp] theorem setReg_t (n : Nib) (v : Word) : (s.setReg n v).t = s.t := rfl
@[simp] theorem setReg_ie (n : Nib) (v : Word) : (s.setReg n v).ie = s.ie := rfl
@[simp] theorem setReg_q (n : Nib) (v : Word) : (s.setReg n v).q = s.q := rfl
@[simp] theorem setReg_ef (n : Nib) (v : Word) : (s.setReg n v).ef = s.ef := rfl
@[simp] theorem setReg_latches (n : Nib) (v : Word) : (s.setReg n v).latches = s.latches := rfl
@[simp] theorem setReg_mem (n : Nib) (v : Word) : (s.setReg n v).mem = s.mem := rfl
@[simp] theorem setReg_intPending (n : Nib) (v : Word) : (s.setReg n v).intPending = s.intPending := rfl
@[simp] theorem setReg_idle (n : Nib) (v : Word) : (s.setReg n v).idle = s.idle := rfl
@[simp] theorem setReg_cycles (n : Nib) (v : Word) : (s.setReg n v).cycles = s.cycles := rfl
@[simp] theorem setReg_queue (n : Nib) (v : Word) : (s.setReg n v).queue = s.queue := rfl
@[simp] theorem setReg_run (n : Nib) (v : Word) : (s.setReg n v).run = s.run := rfl

@[simp] theorem setD_cfg (v : Byte) : (s.setD v).cfg = s.cfg := rfl
@[simp] theorem setD_d (v : Byte) : (s.setD v).d = v := rfl
@[simp] theorem setD_df (v : Byte) : (s.setD v).df = s.df := rfl
@[simp] theorem setD_r (v : Byte) : (s.setD v).r = s.r := rfl
@[simp] theorem setD_p (v : Byte) : (s.setD v).p = s.p := rfl
@[simp] theorem setD_x (v : Byte) : (s.setD v).x = s.x := rfl
@[simp] theorem setD_t (v : Byte) : (s.setD v).t = s.t := rfl
@[simp] theorem setD_ie (v : Byte) : (s.setD v).ie = s.ie := rfl
@[simp] theorem setD_q (v : Byte) : (s.setD v).q = s.q := rfl
@[simp] theorem setD_ef (v : Byte) : (s.setD v).ef = s.ef := rfl
@[simp] theorem setD_latches (v : Byte) : (s.setD v).latches = s.latches := rfl
@[simp] theorem setD_mem (v : Byte) : (s.setD v).mem = s.mem := rfl
@[simp] theorem setD_intPending (v : Byte) : (s.setD v).intPending = s.intPending := rfl
@[simp] theorem setD_idle (v : Byte) : (s.setD v).idle = s.idle := rfl
@[simp] theorem setD_cycles (v : Byte) : (s.setD v).cycles = s.cycles := rfl
@[simp] theorem setD_queue (v : Byte) : (s.setD v).queue = s.queue := rfl
@[simp] theorem setD_run (v : Byte) : (s.setD v).run = s.run := rfl

@[simp] theorem setP_cfg (n : Nib) : (s.setP n).cfg = s.cfg := rfl
@[simp] theorem setP_d (n : Nib) : (s.setP n).d = s.d := rfl
@[simp] theorem setP_df (n : Nib) : (s.setP n).df = s.df := rfl
@[simp] theorem setP_r (n : Nib) : (s.setP n).r = s.r := rfl
@[simp] theorem setP_p (n : Nib) : (s.setP n).p = n := rfl
@[simp] theorem setP_x (n : Nib) : (s.setP n).x = s.x := rfl
@[simp] theorem setP_t (n : Nib) : (s.setP n).t = s.t := rfl
@[simp] theorem setP_ie (n : Nib) : (s.setP n).ie = s.ie := rfl
@[simp] theorem setP_q (n : Nib) : (s.setP n).q = s.q := rfl
@[simp] theorem setP_ef (n : Nib) : (s.setP n).ef = s.ef := rfl
@[simp] theorem setP_latches (n : Nib) : (s.setP n).latches = s.latches := rfl
@[simp] theorem setP_mem (n : Nib) : (s.setP n).mem = s.mem := rfl
@[simp] theorem setP_intPending (n : Nib) : (s.setP n).intPending = s.intPending := rfl
@[simp] theorem setP_idle (n : Nib) : (s.setP n).idle = s.idle := rfl
@[simp] theorem setP_cycles (n : Nib) : (s.setP n).cycles = s.cycles := rfl
@[simp] theorem setP_queue (n : Nib) : (s.setP n).queue = s.queue := rfl
@[simp] theorem setP_run (n : Nib) : (s.setP n).run = s.run := rfl

@[simp] theorem setX_cfg (n : Nib) : (s.setX n).cfg = s.cfg := rfl
@[simp] theorem setX_d (n : Nib) : (s.setX n).d = s.d := rfl
@[simp] theorem setX_df (n : Nib) : (s.setX n).df = s.df := rfl
@[simp] theorem setX_r (n : Nib) : (s.setX n).r = s.r := rfl
@[simp] theorem setX_p (n : Nib) : (s.setX n).p = s.p := rfl
@[simp] theorem setX_x (n : Nib) : (s.setX n).x = n := rfl
@[simp] theorem setX_t (n : Nib) : (s.setX n).t = s.t := rfl
@[simp] theorem setX_ie (n : Nib) : (s.setX n).ie = s.ie := rfl
@[simp] theorem setX_q (n : Nib) : (s.setX n).q = s.q := rfl
@[simp] theorem setX_ef (n : Nib) : (s.setX n).ef = s.ef := rfl
@[simp] theorem setX_latches (n : Nib) : (s.setX n).latches = s.latches := rfl
@[simp] theorem setX_mem (n : Nib) : (s.setX n).mem = s.mem := rfl
@[simp] theorem setX_intPending (n : Nib) : (s.setX n).intPending = s.intPending := rfl
@[simp] theorem setX_idle (n : Nib) : (s.setX n).idle = s.idle := rfl
@[simp] theorem setX_cycles (n : Nib) : (s.setX n).cycles = s.cycles := rfl
@[simp] theorem setX_queue (n : Nib) : (s.setX n).queue = s.queue := rfl
@[simp] theorem setX_run (n : Nib) : (s.setX n).run = s.run := rfl

@[simp] theorem setT_cfg (v : Byte) : (s.setT v).cfg = s.cfg := rfl
@[simp] theorem setT_d (v : Byte) : (s.setT v).d = s.d := rfl
@[simp] theorem setT_df (v : Byte) : (s.setT v).df = s.df := rfl
@[simp] theorem setT_r (v : Byte) : (s.setT v).r = s.r := rfl
@[simp] theorem setT_p (v : Byte) : (s.setT v).p = s.p := rfl
@[simp] theorem setT_x (v : Byte) : (s.setT v).x = s.x := rfl
@[simp] theorem setT_t (v : Byte) : (s.setT v).t = v := rfl
@[simp] theorem setT_ie (v : Byte) : (s.setT v).ie = s.ie := rfl
@[simp] theorem setT_q (v : Byte) : (s.setT v).q = s.q := rfl
@[simp] theorem setT_ef (v : Byte) : (s.setT v).ef = s.ef := rfl
@[simp] theorem setT_latches (v : Byte) : (s.setT v).latches = s.latches := rfl
@[simp] theorem setT_mem (v : Byte) : (s.setT v).mem = s.mem := rfl
@[simp] theorem setT_intPending (v : Byte) : (s.setT v).intPending = s.intPending := rfl
@[simp] theorem setT_idle (v : Byte) : (s.setT v).idle = s.idle := rfl
@[simp] theorem setT_cycles (v : Byte) : (s.setT v).cycles = s.cycles := rfl
@[simp] theorem setT_queue (v : Byte) : (s.setT v).queue = s.queue := rfl
@[simp] theorem setT_run (v : Byte) : (s.setT v).run = s.run := rfl

@[simp] theorem setIe_cfg (b : Bool) : (s.setIe b).cfg = s.cfg := rfl
@[simp] theorem setIe_d (b : Bool) : (s.setIe b).d = s.d := rfl
@[simp] theorem setIe_df (b : Bool) : (s.setIe b).df = s.df := rfl
@[simp] theorem setIe_r (b : Bool) : (s.setIe b).r = s.r := rfl
@[simp] theorem setIe_p (b : Bool) : (s.setIe b).p = s.p := rfl
@[simp] theorem setIe_x (b : Bool) : (s.setIe b).x = s.x := rfl
@[simp] theorem setIe_t (b : Bool) : (s.setIe b).t = s.t := rfl
@[simp] theorem setIe_ie (b : Bool) : (s.setIe b).ie = b := rfl
@[simp] theorem setIe_q (b : Bool) : (s.setIe b).q = s.q := rfl
@[simp] theorem setIe_ef (b : Bool) : (s.setIe b).ef = s.ef := rfl
@[simp] theorem setIe_latches (b : Bool) : (s.setIe b).latches = s.latches := rfl
@[simp] theorem setIe_mem (b : Bool) : (s.setIe b).mem = s.mem := rfl
@[simp] theorem setIe_intPending (b : Bool) : (s.setIe b).intPending = s.intPending := rfl
@[simp] theorem setIe_idle (b : Bool) : (s.setIe b).idle = s.idle := rfl
@[simp] theorem setIe_cycles (b : Bool) : (s.setIe b).cycles = s.cycles := rfl
@[simp] theorem setIe_queue (b : Bool) : (s.setIe b).queue = s.queue := rfl
@[simp] theorem setIe_run (b : Bool) : (s.setIe b).run = s.run := rfl

@[simp] theorem setQ_cfg (b : Bool) : (s.setQ b).cfg = s.cfg := rfl
@[simp] theorem setQ_d (b : Bool) : (s.setQ b).d = s.d := rfl
@[simp] theorem setQ_df (b : Bool) : (s.setQ b).df = s.df := rfl
@[simp] theorem setQ_r (b : Bool) : (s.setQ b).r = s.r := rfl
@[simp] theorem setQ_p (b : Bool) : (s.setQ b).p = s.p := rfl
@[simp] theorem setQ_x (b : Bool) : (s.setQ b).x = s.x := rfl
@[simp] theorem setQ_t (b : Bool) : (s.setQ b).t = s.t := rfl
@[simp] theorem setQ_ie (b : Bool) : (s.setQ b).ie = s.ie := rfl
@[simp] theorem setQ_q (b : Bool) : (s.setQ b).q = b := rfl
@[simp] theorem setQ_ef (b : Bool) : (s.setQ b).ef = s.ef := rfl
@[simp] theorem setQ_latches (b : Bool) : (s.setQ b).latches = s.latches := rfl
@[simp] theorem setQ_mem (b : Bool) : (s.setQ b).mem = s.mem := rfl
@[simp] theorem setQ_intPending (b : Bool) : (s.setQ b).intPending = s.intPending := rfl
@[simp] theorem setQ_idle (b : Bool) : (s.setQ b).idle = s.idle := rfl
@[simp] theorem setQ_cycles (b : Bool) : (s.setQ b).cycles = s.cycles := rfl
@[simp] theorem setQ_queue (b : Bool) : (s.setQ b).queue = s.queue := rfl
@[simp] theorem setQ_run (b : Bool) : (s.setQ b).run = s.run := rfl

@[simp] theorem setIdle_cfg (b : Bool) : (s.setIdle b).cfg = s.cfg := rfl
@[simp] theorem setIdle_d (b : Bool) : (s.setIdle b).d = s.d := rfl
@[simp] theorem setIdle_df (b : Bool) : (s.setIdle b).df = s.df := rfl
@[simp] theorem setIdle_r (b : Bool) : (s.setIdle b).r = s.r := rfl
@[simp] theorem setIdle_p (b : Bool) : (s.setIdle b).p = s.p := rfl
@[simp] theorem setIdle_x (b : Bool) : (s.setIdle b).x = s.x := rfl
@[simp] theorem setIdle_t (b : Bool) : (s.setIdle b).t = s.t := rfl
@[simp] theorem setIdle_ie (b : Bool) : (s.setIdle b).ie = s.ie := rfl
@[simp] theorem setIdle_q (b : Bool) : (s.setIdle b).q = s.q := rfl
@[simp] theorem setIdle_ef (b : Bool) : (s.setIdle b).ef = s.ef := rfl
@[simp] theorem setIdle_latches (b : Bool) : (s.setIdle b).latches = s.latches := rfl
@[simp] theorem setIdle_mem (b : Bool) : (s.setIdle b).mem = s.mem := rfl
@[simp] theorem setIdle_intPending (b : Bool) : (s.setIdle b).intPending = s.intPending := rfl
@[simp] theorem setIdle_idle (b : Bool) : (s.setIdle b).idle = b := rfl
@[simp] theorem setIdle_cycles (b : Bool) : (s.setIdle b).cycles = s.cycles := rfl
@[simp] theorem setIdle_queue (b : Bool) : (s.setIdle b).queue = s.queue := rfl
@[simp] theorem setIdle_run (b : Bool) : (s.setIdle b).run = s.run := rfl

@[simp] theorem setIntPending_cfg (b : Bool) : (s.setIntPending b).cfg = s.cfg := rfl
@[simp] theorem setIntPending_d (b : Bool) : (s.setIntPending b).d = s.d := rfl
@[simp] theorem setIntPending_df (b : Bool) : (s.setIntPending b).df = s.df := rfl
@[simp] theorem setIntPending_r (b : Bool) : (s.setIntPending b).r = s.r := rfl
@[simp] theorem setIntPending_p (b : Bool) : (s.setIntPending b).p = s.p := rfl
@[simp] theorem setIntPending_x (b : Bool) : (s.setIntPending b).x = s.x := rfl
@[simp] theorem setIntPending_t (b : Bool) : (s.setIntPending b).t = s.t := rfl
@[simp] theorem setIntPending_ie (b : Bool) : (s.setIntPending b).ie = s.ie := rfl
@[simp] theorem setIntPending_q (b : Bool) : (s.setIntPending b).q = s.q := rfl
@[simp] theorem setIntPending_ef (b : Bool) : (s.setIntPending b).ef = s.ef := rfl
@[simp] theorem setIntPending_latches (b : Bool) : (s.setIntPending b).latches = s.latches := rfl
@[simp] theorem setIntPending_mem (b : Bool) : (s.setIntPending b).mem = s.mem := rfl
@[simp] theorem setIntPending_intPending (b : Bool) : (s.setIntPending b).intPending = b := rfl
@[simp] theorem setIntPending_idle (b : Bool) : (s.setIntPending b).idle = s.idle := rfl
@[simp] theorem setIntPending_cycles (b : Bool) : (s.setIntPending b).cycles = s.cycles := rfl
@[simp] theorem setIntPending_queue (b : Bool) : (s.setIntPending b).queue = s.queue := rfl
@[simp] theorem setIntPending_run (b : Bool) : (s.setIntPending b).run = s.run := rfl

@[simp] theorem setQueue_cfg (l : List Event) : (s.setQueue l).cfg = s.cfg := rfl
@[simp] theorem setQueue_d (l : List Event) : (s.setQueue l).d = s.d := rfl
@[simp] theorem setQueue_df (l : List Event) : (s.setQueue l).df = s.df := rfl
@[simp] theorem setQueue_r (l : List Event) : (s.setQueue l).r = s.r := rfl
@[simp] theorem setQueue_p (l : List Event) : (s.setQueue l).p = s.p := rfl
@[simp] theorem setQueue_x (l : List Event) : (s.setQueue l).x = s.x := rfl
@[simp] theorem setQueue_t (l : List Event) : (s.setQueue l).t = s.t := rfl
@[simp] theorem setQueue_ie (l : List Event) : (s.setQueue l).ie = s.ie := rfl
@[simp] theorem setQueue_q (l : List Event) : (s.setQueue l).q = s.q := rfl
@[simp] theorem setQueue_ef (l : List Event) : (s.setQueue l).ef = s.ef := rfl
@[simp] theorem setQueue_latches (l : List Event) : (s.setQueue l).latches = s.latches := rfl
@[simp] theorem setQueue_mem (l : List Event) : (s.setQueue l).mem = s.mem := rfl
@[simp] theorem setQueue_intPending (l : List Event) : (s.setQueue l).intPending = s.intPending := rfl
@[simp] theorem setQueue_idle (l : List Event) : (s.setQueue l).idle = s.idle := rfl
@[simp] theorem setQueue_cycles (l : List Event) : (s.setQueue l).cycles = s.cycles := rfl
@[simp] theorem setQueue_queue (l : List Event) : (s.setQueue l).queue = l := rfl
@[simp] theorem setQueue_run (l : List Event) : (s.setQueue l).run = s.run := rfl

@[simp] theorem setEf_cfg (line : EfLine) (b : Bool) : (s.setEf line b).cfg = s.cfg := rfl
@[simp] theorem setEf_d (line : EfLine) (b : Bool) : (s.setEf line b).d = s.d := rfl
@[simp] theorem setEf_df (line : EfLine) (b : Bool) : (s.setEf line b).df = s.df := rfl
@[simp] theorem setEf_r (line : EfLine) (b : Bool) : (s.setEf line b).r = s.r := rfl
@[simp] theorem setEf_p (line : EfLine) (b : Bool) : (s.setEf line b).p = s.p := rfl
@[simp] theorem setEf_x (line : EfLine) (b : Bool) : (s.setEf line b).x = s.x := rfl
@[simp] theorem setEf_t (line : EfLine) (b : Bool) : (s.setEf line b).t = s.t := rfl
@[simp] theorem setEf_ie (line : EfLine) (b : Bool) : (s.setEf line b).ie = s.ie := rfl
@[simp] theorem setEf_q (line : EfLine) (b : Bool) : (s.setEf line b).q = s.q := rfl
@[simp] theorem setEf_ef (line : EfLine) (b : Bool) : (s.setEf line b).ef = s.ef.set (efIndex line).val b (efIndex line).isLt := rfl
@[simp] theorem setEf_latches (line : EfLine) (b : Bool) : (s.setEf line b).latches = s.latches := rfl
@[simp] theorem setEf_mem (line : EfLine) (b : Bool) : (s.setEf line b).mem = s.mem := rfl
@[simp] theorem setEf_intPending (line : EfLine) (b : Bool) : (s.setEf line b).intPending = s.intPending := rfl
@[simp] theorem setEf_idle (line : EfLine) (b : Bool) : (s.setEf line b).idle = s.idle := rfl
@[simp] theorem setEf_cycles (line : EfLine) (b : Bool) : (s.setEf line b).cycles = s.cycles := rfl
@[simp] theorem setEf_queue (line : EfLine) (b : Bool) : (s.setEf line b).queue = s.queue := rfl
@[simp] theorem setEf_run (line : EfLine) (b : Bool) : (s.setEf line b).run = s.run := rfl

@[simp] theorem setPortOut_cfg (port : Port) (b : Byte) : (s.setPortOut port b).cfg = s.cfg := rfl
@[simp] theorem setPortOut_d (port : Port) (b : Byte) : (s.setPortOut port b).d = s.d := rfl
@[simp] theorem setPortOut_df (port : Port) (b : Byte) : (s.setPortOut port b).df = s.df := rfl
@[simp] theorem setPortOut_r (port : Port) (b : Byte) : (s.setPortOut port b).r = s.r := rfl
@[simp] theorem setPortOut_p (port : Port) (b : Byte) : (s.setPortOut port b).p = s.p := rfl
@[simp] theorem setPortOut_x (port : Port) (b : Byte) : (s.setPortOut port b).x = s.x := rfl
@[simp] theorem setPortOut_t (port : Port) (b : Byte) : (s.setPortOut port b).t = s.t := rfl
@[simp] theorem setPortOut_ie (port : Port) (b : Byte) : (s.setPortOut port b).ie = s.ie := rfl
@[simp] theorem setPortOut_q (port : Port) (b : Byte) : (s.setPortOut port b).q = s.q := rfl
@[simp] theorem setPortOut_ef (port : Port) (b : Byte) : (s.setPortOut port b).ef = s.ef := rfl
@[simp] theorem setPortOut_latches (port : Port) (b : Byte) : (s.setPortOut port b).latches = s.latches.setOutput port b := rfl
@[simp] theorem setPortOut_mem (port : Port) (b : Byte) : (s.setPortOut port b).mem = s.mem := rfl
@[simp] theorem setPortOut_intPending (port : Port) (b : Byte) : (s.setPortOut port b).intPending = s.intPending := rfl
@[simp] theorem setPortOut_idle (port : Port) (b : Byte) : (s.setPortOut port b).idle = s.idle := rfl
@[simp] theorem setPortOut_cycles (port : Port) (b : Byte) : (s.setPortOut port b).cycles = s.cycles := rfl
@[simp] theorem setPortOut_queue (port : Port) (b : Byte) : (s.setPortOut port b).queue = s.queue := rfl
@[simp] theorem setPortOut_run (port : Port) (b : Byte) : (s.setPortOut port b).run = s.run := rfl

@[simp] theorem setPortIn_cfg (port : Port) (b : Byte) : (s.setPortIn port b).cfg = s.cfg := rfl
@[simp] theorem setPortIn_d (port : Port) (b : Byte) : (s.setPortIn port b).d = s.d := rfl
@[simp] theorem setPortIn_df (port : Port) (b : Byte) : (s.setPortIn port b).df = s.df := rfl
@[simp] theorem setPortIn_r (port : Port) (b : Byte) : (s.setPortIn port b).r = s.r := rfl
@[simp] theorem setPortIn_p (port : Port) (b : Byte) : (s.setPortIn port b).p = s.p := rfl
@[simp] theorem setPortIn_x (port : Port) (b : Byte) : (s.setPortIn port b).x = s.x := rfl
@[simp] theorem setPortIn_t (port : Port) (b : Byte) : (s.setPortIn port b).t = s.t := rfl
@[simp] theorem setPortIn_ie (port : Port) (b : Byte) : (s.setPortIn port b).ie = s.ie := rfl
@[simp] theorem setPortIn_q (port : Port) (b : Byte) : (s.setPortIn port b).q = s.q := rfl
@[simp] theorem setPortIn_ef (port : Port) (b : Byte) : (s.setPortIn port b).ef = s.ef := rfl
@[simp] theorem setPortIn_latches (port : Port) (b : Byte) : (s.setPortIn port b).latches = s.latches.setInput port b := rfl
@[simp] theorem setPortIn_mem (port : Port) (b : Byte) : (s.setPortIn port b).mem = s.mem := rfl
@[simp] theorem setPortIn_intPending (port : Port) (b : Byte) : (s.setPortIn port b).intPending = s.intPending := rfl
@[simp] theorem setPortIn_idle (port : Port) (b : Byte) : (s.setPortIn port b).idle = s.idle := rfl
@[simp] theorem setPortIn_cycles (port : Port) (b : Byte) : (s.setPortIn port b).cycles = s.cycles := rfl
@[simp] theorem setPortIn_queue (port : Port) (b : Byte) : (s.setPortIn port b).queue = s.queue := rfl
@[simp] theorem setPortIn_run (port : Port) (b : Byte) : (s.setPortIn port b).run = s.run := rfl

@[simp] theorem charge_cfg (c : Nat) : (s.charge c).cfg = s.cfg := rfl
@[simp] theorem charge_d (c : Nat) : (s.charge c).d = s.d := rfl
@[simp] theorem charge_df (c : Nat) : (s.charge c).df = s.df := rfl
@[simp] theorem charge_r (c : Nat) : (s.charge c).r = s.r := rfl
@[simp] theorem charge_p (c : Nat) : (s.charge c).p = s.p := rfl
@[simp] theorem charge_x (c : Nat) : (s.charge c).x = s.x := rfl
@[simp] theorem charge_t (c : Nat) : (s.charge c).t = s.t := rfl
@[simp] theorem charge_ie (c : Nat) : (s.charge c).ie = s.ie := rfl
@[simp] theorem charge_q (c : Nat) : (s.charge c).q = s.q := rfl
@[simp] theorem charge_ef (c : Nat) : (s.charge c).ef = s.ef := rfl
@[simp] theorem charge_latches (c : Nat) : (s.charge c).latches = s.latches := rfl
@[simp] theorem charge_mem (c : Nat) : (s.charge c).mem = s.mem := rfl
@[simp] theorem charge_intPending (c : Nat) : (s.charge c).intPending = s.intPending := rfl
@[simp] theorem charge_idle (c : Nat) : (s.charge c).idle = s.idle := rfl
@[simp] theorem charge_cycles (c : Nat) : (s.charge c).cycles = s.cycles + c := rfl
@[simp] theorem charge_queue (c : Nat) : (s.charge c).queue = s.queue := rfl
@[simp] theorem charge_run (c : Nat) : (s.charge c).run = s.run := rfl

@[simp] theorem setDDf_cfg (res : Byte × Bool) : (s.setDDf res).cfg = s.cfg := rfl
@[simp] theorem setDDf_d (res : Byte × Bool) : (s.setDDf res).d = res.1 := rfl
@[simp] theorem setDDf_df (res : Byte × Bool) : (s.setDDf res).df = res.2 := rfl
@[simp] theorem setDDf_r (res : Byte × Bool) : (s.setDDf res).r = s.r := rfl
@[simp] theorem setDDf_p (res : Byte × Bool) : (s.setDDf res).p = s.p := rfl
@[simp] theorem setDDf_x (res : Byte × Bool) : (s.setDDf res).x = s.x := rfl
@[simp] theorem setDDf_t (res : Byte × Bool) : (s.setDDf res).t = s.t := rfl
@[simp] theorem setDDf_ie (res : Byte × Bool) : (s.setDDf res).ie = s.ie := rfl
@[simp] theorem setDDf_q (res : Byte × Bool) : (s.setDDf res).q = s.q := rfl
@[simp] theorem setDDf_ef (res : Byte × Bool) : (s.setDDf res).ef = s.ef := rfl
@[simp] theorem setDDf_latches (res : Byte × Bool) : (s.setDDf res).latches = s.latches := rfl
@[simp] theorem setDDf_mem (res : Byte × Bool) : (s.setDDf res).mem = s.mem := rfl
@[simp] theorem setDDf_intPending (res : Byte × Bool) : (s.setDDf res).intPending = s.intPending := rfl
@[simp] theorem setDDf_idle (res : Byte × Bool) : (s.setDDf res).idle = s.idle := rfl
@[simp] theorem setDDf_cycles (res : Byte × Bool) : (s.setDDf res).cycles = s.cycles := rfl
@[simp] theorem setDDf_queue (res : Byte × Bool) : (s.setDDf res).queue = s.queue := rfl
@[simp] theorem setDDf_run (res : Byte × Bool) : (s.setDDf res).run = s.run := rfl

/-! The updates built from `setReg` change no field but `r`. -/

@[simp] theorem incReg_cfg (n : Nib) : (s.incReg n).cfg = s.cfg := rfl
@[simp] theorem incReg_d (n : Nib) : (s.incReg n).d = s.d := rfl
@[simp] theorem incReg_df (n : Nib) : (s.incReg n).df = s.df := rfl
@[simp] theorem incReg_p (n : Nib) : (s.incReg n).p = s.p := rfl
@[simp] theorem incReg_x (n : Nib) : (s.incReg n).x = s.x := rfl
@[simp] theorem incReg_t (n : Nib) : (s.incReg n).t = s.t := rfl
@[simp] theorem incReg_ie (n : Nib) : (s.incReg n).ie = s.ie := rfl
@[simp] theorem incReg_q (n : Nib) : (s.incReg n).q = s.q := rfl
@[simp] theorem incReg_ef (n : Nib) : (s.incReg n).ef = s.ef := rfl
@[simp] theorem incReg_latches (n : Nib) : (s.incReg n).latches = s.latches := rfl
@[simp] theorem incReg_mem (n : Nib) : (s.incReg n).mem = s.mem := rfl
@[simp] theorem incReg_intPending (n : Nib) : (s.incReg n).intPending = s.intPending := rfl
@[simp] theorem incReg_idle (n : Nib) : (s.incReg n).idle = s.idle := rfl
@[simp] theorem incReg_cycles (n : Nib) : (s.incReg n).cycles = s.cycles := rfl
@[simp] theorem incReg_queue (n : Nib) : (s.incReg n).queue = s.queue := rfl
@[simp] theorem incReg_run (n : Nib) : (s.incReg n).run = s.run := rfl

@[simp] theorem decReg_cfg (n : Nib) : (s.decReg n).cfg = s.cfg := rfl
@[simp] theorem decReg_d (n : Nib) : (s.decReg n).d = s.d := rfl
@[simp] theorem decReg_df (n : Nib) : (s.decReg n).df = s.df := rfl
@[simp] theorem decReg_p (n : Nib) : (s.decReg n).p = s.p := rfl
@[simp] theorem decReg_x (n : Nib) : (s.decReg n).x = s.x := rfl
@[simp] theorem decReg_t (n : Nib) : (s.decReg n).t = s.t := rfl
@[simp] theorem decReg_ie (n : Nib) : (s.decReg n).ie = s.ie := rfl
@[simp] theorem decReg_q (n : Nib) : (s.decReg n).q = s.q := rfl
@[simp] theorem decReg_ef (n : Nib) : (s.decReg n).ef = s.ef := rfl
@[simp] theorem decReg_latches (n : Nib) : (s.decReg n).latches = s.latches := rfl
@[simp] theorem decReg_mem (n : Nib) : (s.decReg n).mem = s.mem := rfl
@[simp] theorem decReg_intPending (n : Nib) : (s.decReg n).intPending = s.intPending := rfl
@[simp] theorem decReg_idle (n : Nib) : (s.decReg n).idle = s.idle := rfl
@[simp] theorem decReg_cycles (n : Nib) : (s.decReg n).cycles = s.cycles := rfl
@[simp] theorem decReg_queue (n : Nib) : (s.decReg n).queue = s.queue := rfl
@[simp] theorem decReg_run (n : Nib) : (s.decReg n).run = s.run := rfl

@[simp] theorem setPc_cfg (v : Word) : (s.setPc v).cfg = s.cfg := rfl
@[simp] theorem setPc_d (v : Word) : (s.setPc v).d = s.d := rfl
@[simp] theorem setPc_df (v : Word) : (s.setPc v).df = s.df := rfl
@[simp] theorem setPc_p (v : Word) : (s.setPc v).p = s.p := rfl
@[simp] theorem setPc_x (v : Word) : (s.setPc v).x = s.x := rfl
@[simp] theorem setPc_t (v : Word) : (s.setPc v).t = s.t := rfl
@[simp] theorem setPc_ie (v : Word) : (s.setPc v).ie = s.ie := rfl
@[simp] theorem setPc_q (v : Word) : (s.setPc v).q = s.q := rfl
@[simp] theorem setPc_ef (v : Word) : (s.setPc v).ef = s.ef := rfl
@[simp] theorem setPc_latches (v : Word) : (s.setPc v).latches = s.latches := rfl
@[simp] theorem setPc_mem (v : Word) : (s.setPc v).mem = s.mem := rfl
@[simp] theorem setPc_intPending (v : Word) : (s.setPc v).intPending = s.intPending := rfl
@[simp] theorem setPc_idle (v : Word) : (s.setPc v).idle = s.idle := rfl
@[simp] theorem setPc_cycles (v : Word) : (s.setPc v).cycles = s.cycles := rfl
@[simp] theorem setPc_queue (v : Word) : (s.setPc v).queue = s.queue := rfl
@[simp] theorem setPc_run (v : Word) : (s.setPc v).run = s.run := rfl

@[simp] theorem advancePc_cfg : (s.advancePc).cfg = s.cfg := rfl
@[simp] theorem advancePc_d : (s.advancePc).d = s.d := rfl
@[simp] theorem advancePc_df : (s.advancePc).df = s.df := rfl
@[simp] theorem advancePc_p : (s.advancePc).p = s.p := rfl
@[simp] theorem advancePc_x : (s.advancePc).x = s.x := rfl
@[simp] theorem advancePc_t : (s.advancePc).t = s.t := rfl
@[simp] theorem advancePc_ie : (s.advancePc).ie = s.ie := rfl
@[simp] theorem advancePc_q : (s.advancePc).q = s.q := rfl
@[simp] theorem advancePc_ef : (s.advancePc).ef = s.ef := rfl
@[simp] theorem advancePc_latches : (s.advancePc).latches = s.latches := rfl
@[simp] theorem advancePc_mem : (s.advancePc).mem = s.mem := rfl
@[simp] theorem advancePc_intPending : (s.advancePc).intPending = s.intPending := rfl
@[simp] theorem advancePc_idle : (s.advancePc).idle = s.idle := rfl
@[simp] theorem advancePc_cycles : (s.advancePc).cycles = s.cycles := rfl
@[simp] theorem advancePc_queue : (s.advancePc).queue = s.queue := rfl
@[simp] theorem advancePc_run : (s.advancePc).run = s.run := rfl

end Sys2Proof.Machine.State
end

