-- ==== Sys2Proof/Laws/Registers.lean ====
section
/-! SUPPORT. What registers, flags, latches and memory read as after an update, through the accessors the claims use. -/

namespace Sys2Proof.Machine.State

variable (s : State)

/-! ### General registers -/

theorem reg_setReg (n m : Nib) (v : Word) : (s.setReg n v).reg m = if m = n then v else s.reg m := by
  unfold reg setReg
  simp only [Vector.getElem_set]
  by_cases h : m = n
  · simp [h]
  · have : n.toNat ≠ m.toNat := fun e => h (BitVec.eq_of_toNat_eq e.symm)
    simp [h, this]

@[simp] theorem reg_setReg_same (n : Nib) (v : Word) : (s.setReg n v).reg n = v := by simp [reg_setReg]

theorem reg_setReg_other {n m : Nib} (h : m ≠ n) (v : Word) : (s.setReg n v).reg m = s.reg m := by
  simp [reg_setReg, h]

@[simp] theorem reg_incReg_same (n : Nib) : (s.incReg n).reg n = s.reg n + 1 := by simp [incReg]

@[simp] theorem reg_decReg_same (n : Nib) : (s.decReg n).reg n = s.reg n - 1 := by simp [decReg]

theorem reg_incReg (n m : Nib) : (s.incReg n).reg m = if m = n then s.reg n + 1 else s.reg m := s.reg_setReg n m _

theorem reg_decReg (n m : Nib) : (s.decReg n).reg m = if m = n then s.reg n - 1 else s.reg m := s.reg_setReg n m _

theorem reg_setPc (v : Word) (m : Nib) : (s.setPc v).reg m = if m = s.p then v else s.reg m := s.reg_setReg s.p m v

@[simp] theorem pc_setPc (v : Word) : (s.setPc v).pc = v := by simp [pc, setPc]

@[simp] theorem pc_advancePc : s.advancePc.pc = s.pc + 1 := by simp [advancePc, pc]

/-! An update of another field changes no register. -/

@[simp] theorem reg_memWrite (a : Word) (v : Byte) (n : Nib) : (s.memWrite a v).reg n = s.reg n := rfl
@[simp] theorem reg_setD (v : Byte) (n : Nib) : (s.setD v).reg n = s.reg n := rfl
@[simp] theorem reg_setDDf (res : Byte × Bool) (n : Nib) : (s.setDDf res).reg n = s.reg n := rfl
@[simp] theorem reg_setP (v : Nib) (n : Nib) : (s.setP v).reg n = s.reg n := rfl
@[simp] theorem reg_setX (v : Nib) (n : Nib) : (s.setX v).reg n = s.reg n := rfl
@[simp] theorem reg_setT (v : Byte) (n : Nib) : (s.setT v).reg n = s.reg n := rfl
@[simp] theorem reg_setIe (b : Bool) (n : Nib) : (s.setIe b).reg n = s.reg n := rfl
@[simp] theorem reg_setQ (b : Bool) (n : Nib) : (s.setQ b).reg n = s.reg n := rfl
@[simp] theorem reg_setIdle (b : Bool) (n : Nib) : (s.setIdle b).reg n = s.reg n := rfl
@[simp] theorem reg_setIntPending (b : Bool) (n : Nib) : (s.setIntPending b).reg n = s.reg n := rfl
@[simp] theorem reg_setPortOut (port : Port) (b : Byte) (n : Nib) : (s.setPortOut port b).reg n = s.reg n := rfl
@[simp] theorem reg_charge (c : Nat) (n : Nib) : (s.charge c).reg n = s.reg n := rfl

/-! ### Memory -/

/-- A read after a write, in terms of addresses: two addresses are one place when they select one cell. -/
theorem memRead_memWrite (a b : Word) (v : Byte) :
    (s.memWrite a v).memRead b = if s.cellOf b = s.cellOf a then v else s.memRead b :=
  Memory.read_write _ _ _ _

@[simp] theorem memRead_memWrite_same (a : Word) (v : Byte) : (s.memWrite a v).memRead a = v := by
  simp [memRead_memWrite]

@[simp] theorem memRead_setReg (n : Nib) (v a : Word) : (s.setReg n v).memRead a = s.memRead a := rfl
@[simp] theorem memRead_setD (v : Byte) (a : Word) : (s.setD v).memRead a = s.memRead a := rfl
@[simp] theorem memRead_setDDf (res : Byte × Bool) (a : Word) : (s.setDDf res).memRead a = s.memRead a := rfl
@[simp] theorem memRead_incReg (n : Nib) (a : Word) : (s.incReg n).memRead a = s.memRead a := rfl
@[simp] theorem memRead_decReg (n : Nib) (a : Word) : (s.decReg n).memRead a = s.memRead a := rfl
@[simp] theorem memRead_setPc (v a : Word) : (s.setPc v).memRead a = s.memRead a := rfl
@[simp] theorem memRead_setX (v : Nib) (a : Word) : (s.setX v).memRead a = s.memRead a := rfl
@[simp] theorem memRead_setT (v : Byte) (a : Word) : (s.setT v).memRead a = s.memRead a := rfl
@[simp] theorem memRead_setPortOut (port : Port) (b : Byte) (a : Word) : (s.setPortOut port b).memRead a = s.memRead a :=
  rfl

/-! ### Flag lines and latches -/

theorem efIndex_injective : Function.Injective efIndex := by
  intro a b
  cases a <;> cases b <;> simp [efIndex]

theorem efOf_setEf (line other : EfLine) (b : Bool) :
    (s.setEf line b).efOf other = if other = line then b else s.efOf other := by
  unfold efOf setEf
  simp only [Fin.getElem_fin, Vector.getElem_set]
  by_cases h : other = line
  · simp [h]
  · have : (efIndex line).val ≠ (efIndex other).val := fun e => h (efIndex_injective (Fin.ext e)).symm
    simp [h, this]

end State

theorem portIndex_injective : Function.Injective portIndex := by
  intro a b
  cases a <;> cases b <;> simp [portIndex]

theorem latchGet_latchSet (v : Vector Byte 7) (port other : Port) (b : Byte) :
    latchGet (latchSet v port b) other = if other = port then b else latchGet v other := by
  unfold latchGet latchSet
  simp only [Fin.getElem_fin, Vector.getElem_set]
  by_cases h : other = port
  · simp [h]
  · have : (portIndex port).val ≠ (portIndex other).val := fun e => h (portIndex_injective (Fin.ext e)).symm
    simp [h, this]

namespace State

variable (s : State)

theorem portOut_setPortOut (port other : Port) (b : Byte) :
    (s.setPortOut port b).portOut other = if other = port then b else s.portOut other := by
  unfold portOut setPortOut
  cases s.latches <;> simp [Latches.outputOf, Latches.setOutput, latchGet_latchSet]

theorem portIn_setPortIn (port other : Port) (b : Byte) :
    (s.setPortIn port b).portIn other = if other = port then b else s.portIn other := by
  unfold portIn setPortIn
  cases s.latches <;> simp [Latches.inputOf, Latches.setInput, latchGet_latchSet]

end Sys2Proof.Machine.State
end

