-- ==== Sys2Proof/Laws/Scheduler.lean ====
section
/-! SUPPORT. What the event scheduler does: which fields one event can change, ApplyEvents as a fold of the due events,
and the place of an event in the queue. -/

namespace Sys2Proof.Machine

namespace State

variable (s : State)

/-! ### One event -/

@[simp] theorem applyEvent_cfg (e : Event) : (s.applyEvent e).cfg = s.cfg := by unfold applyEvent; split <;> rfl
@[simp] theorem applyEvent_d (e : Event) : (s.applyEvent e).d = s.d := by unfold applyEvent; split <;> rfl
@[simp] theorem applyEvent_df (e : Event) : (s.applyEvent e).df = s.df := by unfold applyEvent; split <;> rfl
@[simp] theorem applyEvent_r (e : Event) : (s.applyEvent e).r = s.r := by unfold applyEvent; split <;> rfl
@[simp] theorem applyEvent_p (e : Event) : (s.applyEvent e).p = s.p := by unfold applyEvent; split <;> rfl
@[simp] theorem applyEvent_x (e : Event) : (s.applyEvent e).x = s.x := by unfold applyEvent; split <;> rfl
@[simp] theorem applyEvent_t (e : Event) : (s.applyEvent e).t = s.t := by unfold applyEvent; split <;> rfl
@[simp] theorem applyEvent_ie (e : Event) : (s.applyEvent e).ie = s.ie := by unfold applyEvent; split <;> rfl
@[simp] theorem applyEvent_q (e : Event) : (s.applyEvent e).q = s.q := by unfold applyEvent; split <;> rfl
@[simp] theorem applyEvent_mem (e : Event) : (s.applyEvent e).mem = s.mem := by unfold applyEvent; split <;> rfl
@[simp] theorem applyEvent_idle (e : Event) : (s.applyEvent e).idle = s.idle := by unfold applyEvent; split <;> rfl
@[simp] theorem applyEvent_cycles (e : Event) : (s.applyEvent e).cycles = s.cycles := by unfold applyEvent; split <;> rfl
@[simp] theorem applyEvent_run (e : Event) : (s.applyEvent e).run = s.run := by unfold applyEvent; split <;> rfl
@[simp] theorem applyEvent_queue (e : Event) : (s.applyEvent e).queue = s.queue := by unfold applyEvent; split <;> rfl

theorem applyEvent_intPending (e : Event) : (s.applyEvent e).intPending = (s.intPending || e.kind == .interrupt) := by
  unfold applyEvent
  split <;> rename_i h <;> simp [h]

/-! ### The due events in order -/

@[simp] theorem foldl_applyEvent_cfg (l : List Event) : (l.foldl applyEvent s).cfg = s.cfg := by
  induction l generalizing s <;> simp_all
@[simp] theorem foldl_applyEvent_d (l : List Event) : (l.foldl applyEvent s).d = s.d := by
  induction l generalizing s <;> simp_all
@[simp] theorem foldl_applyEvent_df (l : List Event) : (l.foldl applyEvent s).df = s.df := by
  induction l generalizing s <;> simp_all
@[simp] theorem foldl_applyEvent_r (l : List Event) : (l.foldl applyEvent s).r = s.r := by
  induction l generalizing s <;> simp_all
@[simp] theorem foldl_applyEvent_p (l : List Event) : (l.foldl applyEvent s).p = s.p := by
  induction l generalizing s <;> simp_all
@[simp] theorem foldl_applyEvent_x (l : List Event) : (l.foldl applyEvent s).x = s.x := by
  induction l generalizing s <;> simp_all
@[simp] theorem foldl_applyEvent_t (l : List Event) : (l.foldl applyEvent s).t = s.t := by
  induction l generalizing s <;> simp_all
@[simp] theorem foldl_applyEvent_ie (l : List Event) : (l.foldl applyEvent s).ie = s.ie := by
  induction l generalizing s <;> simp_all
@[simp] theorem foldl_applyEvent_q (l : List Event) : (l.foldl applyEvent s).q = s.q := by
  induction l generalizing s <;> simp_all
@[simp] theorem foldl_applyEvent_mem (l : List Event) : (l.foldl applyEvent s).mem = s.mem := by
  induction l generalizing s <;> simp_all
@[simp] theorem foldl_applyEvent_idle (l : List Event) : (l.foldl applyEvent s).idle = s.idle := by
  induction l generalizing s <;> simp_all
@[simp] theorem foldl_applyEvent_cycles (l : List Event) : (l.foldl applyEvent s).cycles = s.cycles := by
  induction l generalizing s <;> simp_all
@[simp] theorem foldl_applyEvent_run (l : List Event) : (l.foldl applyEvent s).run = s.run := by
  induction l generalizing s <;> simp_all
@[simp] theorem foldl_applyEvent_queue (l : List Event) : (l.foldl applyEvent s).queue = s.queue := by
  induction l generalizing s <;> simp_all

theorem foldl_applyEvent_intPending (l : List Event) :
    (l.foldl applyEvent s).intPending = (s.intPending || l.any fun e => e.kind == .interrupt) := by
  induction l generalizing s with
  | nil => simp
  | cons e l ih => simp [ih, applyEvent_intPending, Bool.or_assoc]

/-- ApplyEvents is the fold of the due events, and leaves the rest of the queue. -/
theorem applyDue_eq (now : Nat) (l : List Event) :
    applyDue now l s = ((dueAt now l).foldl applyEvent s).setQueue (l.dropWhile fun e => decide (e.time.val ≤ now)) := by
  induction l generalizing s with
  | nil => rfl
  | cons e l ih =>
    by_cases h : e.time.val ≤ now
    · simp [applyDue, dueAt, h, ih]
    · simp [applyDue, dueAt, h]

theorem applyEvents_eq : s.applyEvents =
    ((dueAt s.nowNs s.queue).foldl applyEvent s).setQueue
      (s.queue.dropWhile fun e => decide (e.time.val ≤ s.nowNs)) := s.applyDue_eq _ _

/-! ### ApplyEvents, field by field -/

@[simp] theorem applyEvents_cfg : s.applyEvents.cfg = s.cfg := by simp [applyEvents_eq]
@[simp] theorem applyEvents_d : s.applyEvents.d = s.d := by simp [applyEvents_eq]
@[simp] theorem applyEvents_df : s.applyEvents.df = s.df := by simp [applyEvents_eq]
@[simp] theorem applyEvents_r : s.applyEvents.r = s.r := by simp [applyEvents_eq]
@[simp] theorem applyEvents_p : s.applyEvents.p = s.p := by simp [applyEvents_eq]
@[simp] theorem applyEvents_x : s.applyEvents.x = s.x := by simp [applyEvents_eq]
@[simp] theorem applyEvents_t : s.applyEvents.t = s.t := by simp [applyEvents_eq]
@[simp] theorem applyEvents_ie : s.applyEvents.ie = s.ie := by simp [applyEvents_eq]
@[simp] theorem applyEvents_q : s.applyEvents.q = s.q := by simp [applyEvents_eq]
@[simp] theorem applyEvents_mem : s.applyEvents.mem = s.mem := by simp [applyEvents_eq]
@[simp] theorem applyEvents_idle : s.applyEvents.idle = s.idle := by simp [applyEvents_eq]
@[simp] theorem applyEvents_cycles : s.applyEvents.cycles = s.cycles := by simp [applyEvents_eq]
@[simp] theorem applyEvents_run : s.applyEvents.run = s.run := by simp [applyEvents_eq]

theorem applyEvents_queue : s.applyEvents.queue = s.queue.dropWhile fun e => decide (e.time.val ≤ s.nowNs) := by
  simp [applyEvents_eq]

@[simp] theorem applyEvents_nowNs : s.applyEvents.nowNs = s.nowNs := by simp [nowNs]

@[simp] theorem applyEvents_reg (n : Nib) : s.applyEvents.reg n = s.reg n := by simp [reg]

@[simp] theorem applyEvents_memRead (a : Word) : s.applyEvents.memRead a = s.memRead a := by simp [memRead, cellOf]

end State

/-! ### The place of an event in the queue -/

theorem insertEvent_perm (e : Event) (l : List Event) : (insertEvent e l).Perm (e :: l) := by
  induction l with
  | nil => exact .refl _
  | cons f l ih =>
    by_cases h : e.time < f.time
    · simp [insertEvent, h]
    · simp only [insertEvent, h, if_false]
      exact (ih.cons f).trans (.swap e f l)

theorem insertEvent_ascending (e : Event) {l : List Event} (h : l.Pairwise fun a b => a.time ≤ b.time) :
    (insertEvent e l).Pairwise fun a b => a.time ≤ b.time := by
  induction l with
  | nil => simp [insertEvent]
  | cons f l ih =>
    obtain ⟨hf, hl⟩ := List.pairwise_cons.mp h
    by_cases hlt : e.time < f.time
    · simp only [insertEvent, hlt, if_true, List.pairwise_cons]
      refine ⟨fun a ha => ?_, hf, hl⟩
      rcases List.mem_cons.mp ha with rfl | ha
      · exact hlt.le
      · exact hlt.le.trans (hf a ha)
    · simp only [insertEvent, hlt, if_false, List.pairwise_cons]
      refine ⟨fun a ha => ?_, ih hl⟩
      rcases List.mem_cons.mp ((insertEvent_perm e l).mem_iff.mp ha) with rfl | ha
      · exact not_lt.mp hlt
      · exact hf a ha

end Sys2Proof.Machine
end

