-- ==== Sys2Proof/Laws/Loop.lean ====
section
/-! SUPPORT. What a step and an instruction can do, said once: the inversion of `step`, and the parts of the state no
instruction writes. Later proofs cite these and unfold neither. -/

namespace Sys2Proof.Machine

/-- The end of an iteration, inverted. -/
theorem endIteration_eq_next {s t : State} (h : s.endIteration = .next t) :
    s.nowNs < 2 ^ 64 ∧ t = s.applyEvents := by
  unfold State.endIteration at h
  split at h
  · exact ⟨‹_›, (Host.Outcome.next.inj h).symm⟩
  · cases h

/-- The end of an instruction's iteration, inverted. -/
theorem finishInstr_eq_next {c : Nat} {o : Result} {t : State} (h : finishInstr c o = .next t) :
    ∃ u, o = .next u ∧ (u.charge c).endIteration = .next t := by
  cases o with
  | next u => exact ⟨u, rfl, h⟩
  | fault _ => cases h
  | refused _ => cases h

/-- Everything a step can do: an acknowledgement, an idle pass or an instruction, whose charge brings the time to the new
boundary, and then the due events. -/
theorem step_cases {s t : State} (h : step s = .next t) :
    s.run = .running ∧ ∃ u : State, u.nowNs < 2 ^ 64 ∧ t = u.applyEvents ∧
      ((s.interruptTaken = true ∧ u = s.interruptAck) ∨
       (s.interruptTaken = false ∧ s.idle = true ∧ u = s.idlePass) ∨
       (s.interruptTaken = false ∧ s.idle = false ∧
         ∃ v, exec s.fetchInstr s.afterFetch = .next v ∧ u = v.charge (opcodeCost s.opcodeByte))) := by
  unfold step iterate at h
  cases hrun : s.run with
  | halted => simp [hrun] at h
  | running =>
    simp only [hrun] at h
    refine ⟨rfl, ?_⟩
    by_cases hint : s.interruptTaken = true
    · simp only [hint, if_true] at h
      obtain ⟨hn, rfl⟩ := endIteration_eq_next h
      exact ⟨_, hn, rfl, .inl ⟨hint, rfl⟩⟩
    · have hint' : s.interruptTaken = false := by simpa using hint
      by_cases hidle : s.idle = true
      · simp only [hint', hidle] at h
        obtain ⟨hn, rfl⟩ := endIteration_eq_next h
        exact ⟨_, hn, rfl, .inr (.inl ⟨hint', hidle, rfl⟩)⟩
      · have hidle' : s.idle = false := by simpa using hidle
        simp only [hint', hidle'] at h
        obtain ⟨v, hv, hu⟩ := finishInstr_eq_next h
        obtain ⟨hn, rfl⟩ := endIteration_eq_next hu
        exact ⟨_, hn, rfl, .inr (.inr ⟨hint', hidle', v, hv, rfl⟩)⟩

/-! ### What the branches and skips change -/

namespace State

variable (s : State)

@[simp] theorem shortBranch_cfg (c : Bool) (b : Byte) : (s.shortBranch c b).cfg = s.cfg := by cases c <;> rfl
@[simp] theorem shortBranch_d (c : Bool) (b : Byte) : (s.shortBranch c b).d = s.d := by cases c <;> rfl
@[simp] theorem shortBranch_df (c : Bool) (b : Byte) : (s.shortBranch c b).df = s.df := by cases c <;> rfl
@[simp] theorem shortBranch_p (c : Bool) (b : Byte) : (s.shortBranch c b).p = s.p := by cases c <;> rfl
@[simp] theorem shortBranch_x (c : Bool) (b : Byte) : (s.shortBranch c b).x = s.x := by cases c <;> rfl
@[simp] theorem shortBranch_t (c : Bool) (b : Byte) : (s.shortBranch c b).t = s.t := by cases c <;> rfl
@[simp] theorem shortBranch_ie (c : Bool) (b : Byte) : (s.shortBranch c b).ie = s.ie := by cases c <;> rfl
@[simp] theorem shortBranch_q (c : Bool) (b : Byte) : (s.shortBranch c b).q = s.q := by cases c <;> rfl
@[simp] theorem shortBranch_ef (c : Bool) (b : Byte) : (s.shortBranch c b).ef = s.ef := by cases c <;> rfl
@[simp] theorem shortBranch_latches (c : Bool) (b : Byte) : (s.shortBranch c b).latches = s.latches := by cases c <;> rfl
@[simp] theorem shortBranch_mem (c : Bool) (b : Byte) : (s.shortBranch c b).mem = s.mem := by cases c <;> rfl
@[simp] theorem shortBranch_intPending (c : Bool) (b : Byte) : (s.shortBranch c b).intPending = s.intPending := by cases c <;> rfl
@[simp] theorem shortBranch_idle (c : Bool) (b : Byte) : (s.shortBranch c b).idle = s.idle := by cases c <;> rfl
@[simp] theorem shortBranch_cycles (c : Bool) (b : Byte) : (s.shortBranch c b).cycles = s.cycles := by cases c <;> rfl
@[simp] theorem shortBranch_queue (c : Bool) (b : Byte) : (s.shortBranch c b).queue = s.queue := by cases c <;> rfl
@[simp] theorem shortBranch_run (c : Bool) (b : Byte) : (s.shortBranch c b).run = s.run := by cases c <;> rfl

@[simp] theorem longBranch_cfg (c : Bool) (a : Word) : (s.longBranch c a).cfg = s.cfg := by cases c <;> rfl
@[simp] theorem longBranch_d (c : Bool) (a : Word) : (s.longBranch c a).d = s.d := by cases c <;> rfl
@[simp] theorem longBranch_df (c : Bool) (a : Word) : (s.longBranch c a).df = s.df := by cases c <;> rfl
@[simp] theorem longBranch_p (c : Bool) (a : Word) : (s.longBranch c a).p = s.p := by cases c <;> rfl
@[simp] theorem longBranch_x (c : Bool) (a : Word) : (s.longBranch c a).x = s.x := by cases c <;> rfl
@[simp] theorem longBranch_t (c : Bool) (a : Word) : (s.longBranch c a).t = s.t := by cases c <;> rfl
@[simp] theorem longBranch_ie (c : Bool) (a : Word) : (s.longBranch c a).ie = s.ie := by cases c <;> rfl
@[simp] theorem longBranch_q (c : Bool) (a : Word) : (s.longBranch c a).q = s.q := by cases c <;> rfl
@[simp] theorem longBranch_ef (c : Bool) (a : Word) : (s.longBranch c a).ef = s.ef := by cases c <;> rfl
@[simp] theorem longBranch_latches (c : Bool) (a : Word) : (s.longBranch c a).latches = s.latches := by cases c <;> rfl
@[simp] theorem longBranch_mem (c : Bool) (a : Word) : (s.longBranch c a).mem = s.mem := by cases c <;> rfl
@[simp] theorem longBranch_intPending (c : Bool) (a : Word) : (s.longBranch c a).intPending = s.intPending := by cases c <;> rfl
@[simp] theorem longBranch_idle (c : Bool) (a : Word) : (s.longBranch c a).idle = s.idle := by cases c <;> rfl
@[simp] theorem longBranch_cycles (c : Bool) (a : Word) : (s.longBranch c a).cycles = s.cycles := by cases c <;> rfl
@[simp] theorem longBranch_queue (c : Bool) (a : Word) : (s.longBranch c a).queue = s.queue := by cases c <;> rfl
@[simp] theorem longBranch_run (c : Bool) (a : Word) : (s.longBranch c a).run = s.run := by cases c <;> rfl

@[simp] theorem longSkip_cfg (c : Bool) : (s.longSkip c).cfg = s.cfg := by cases c <;> rfl
@[simp] theorem longSkip_d (c : Bool) : (s.longSkip c).d = s.d := by cases c <;> rfl
@[simp] theorem longSkip_df (c : Bool) : (s.longSkip c).df = s.df := by cases c <;> rfl
@[simp] theorem longSkip_p (c : Bool) : (s.longSkip c).p = s.p := by cases c <;> rfl
@[simp] theorem longSkip_x (c : Bool) : (s.longSkip c).x = s.x := by cases c <;> rfl
@[simp] theorem longSkip_t (c : Bool) : (s.longSkip c).t = s.t := by cases c <;> rfl
@[simp] theorem longSkip_ie (c : Bool) : (s.longSkip c).ie = s.ie := by cases c <;> rfl
@[simp] theorem longSkip_q (c : Bool) : (s.longSkip c).q = s.q := by cases c <;> rfl
@[simp] theorem longSkip_ef (c : Bool) : (s.longSkip c).ef = s.ef := by cases c <;> rfl
@[simp] theorem longSkip_latches (c : Bool) : (s.longSkip c).latches = s.latches := by cases c <;> rfl
@[simp] theorem longSkip_mem (c : Bool) : (s.longSkip c).mem = s.mem := by cases c <;> rfl
@[simp] theorem longSkip_intPending (c : Bool) : (s.longSkip c).intPending = s.intPending := by cases c <;> rfl
@[simp] theorem longSkip_idle (c : Bool) : (s.longSkip c).idle = s.idle := by cases c <;> rfl
@[simp] theorem longSkip_cycles (c : Bool) : (s.longSkip c).cycles = s.cycles := by cases c <;> rfl
@[simp] theorem longSkip_queue (c : Bool) : (s.longSkip c).queue = s.queue := by cases c <;> rfl
@[simp] theorem longSkip_run (c : Bool) : (s.longSkip c).run = s.run := by cases c <;> rfl

end State

/-! ### What no instruction writes -/

/-- The parameters, the flag lines and the state of the synchroniser and the clock are no instruction's to write. -/
theorem exec_keeps_synchroniser {i : Instr} {s t : State} (h : exec i s = .next t) :
    t.cfg = s.cfg ∧ t.ef = s.ef ∧ t.intPending = s.intPending ∧ t.cycles = s.cycles ∧ t.queue = s.queue ∧
      t.run = s.run := by
  cases i <;> simp only [exec] at h
  case reserved68 =>
    unfold execReserved68 at h
    split at h <;> cases h <;> exact ⟨rfl, rfl, rfl, rfl, rfl, rfl⟩
  all_goals cases h
  all_goals first
    | exact ⟨rfl, rfl, rfl, rfl, rfl, rfl⟩
    | simp

/-- What an instruction can do to memory: nothing, or one byte stored. -/
theorem exec_mem_cases {i : Instr} {s t : State} (h : exec i s = .next t) :
    t.mem = s.mem ∨ ∃ a v, t.mem = s.mem.write (s.cellOf a) v := by
  cases i <;> simp only [exec] at h
  case reserved68 =>
    unfold execReserved68 at h
    split at h <;> cases h <;> exact .inl rfl
  all_goals cases h
  all_goals first
    | exact .inl rfl
    | exact .inr ⟨_, _, rfl⟩
    | exact .inl (by simp)

end Sys2Proof.Machine
end

