-- ==== Sys2Proof/Laws/PerInstr.lean ====
section
/-! SUPPORT. Per-instruction facts about the syntax: one family, how many bytes an encoding has. -/

namespace Sys2Proof.Laws.EncodedLength

/-- An instruction's encoding has the length its opcode byte fixes (30_encoding.md R71). -/
def Statement (i : Instr) : Prop := (encode i).length = instrLength i.opcode

theorem ldn (n : Nib) : Statement (.ldn n) := by
  have h : ∀ n : Nib, (encode (.ldn n)).length = instrLength (Instr.opcode (.ldn n)) := by decide
  exact h n

theorem lda (n : Nib) : Statement (.lda n) := by
  have h : ∀ n : Nib, (encode (.lda n)).length = instrLength (Instr.opcode (.lda n)) := by decide
  exact h n

theorem ldx : Statement .ldx := by
  show 1 = instrLength 0xF0
  decide

theorem ldxa : Statement .ldxa := by
  show 1 = instrLength 0x72
  decide

theorem ldi (b : Byte) : Statement (.ldi b) := by
  show 2 = instrLength 0xF8
  decide

theorem str (n : Nib) : Statement (.str n) := by
  have h : ∀ n : Nib, (encode (.str n)).length = instrLength (Instr.opcode (.str n)) := by decide
  exact h n

theorem stxd : Statement .stxd := by
  show 1 = instrLength 0x73
  decide

theorem irx : Statement .irx := by
  show 1 = instrLength 0x60
  decide

theorem inc (n : Nib) : Statement (.inc n) := by
  have h : ∀ n : Nib, (encode (.inc n)).length = instrLength (Instr.opcode (.inc n)) := by decide
  exact h n

theorem dec (n : Nib) : Statement (.dec n) := by
  have h : ∀ n : Nib, (encode (.dec n)).length = instrLength (Instr.opcode (.dec n)) := by decide
  exact h n

theorem glo (n : Nib) : Statement (.glo n) := by
  have h : ∀ n : Nib, (encode (.glo n)).length = instrLength (Instr.opcode (.glo n)) := by decide
  exact h n

theorem ghi (n : Nib) : Statement (.ghi n) := by
  have h : ∀ n : Nib, (encode (.ghi n)).length = instrLength (Instr.opcode (.ghi n)) := by decide
  exact h n

theorem plo (n : Nib) : Statement (.plo n) := by
  have h : ∀ n : Nib, (encode (.plo n)).length = instrLength (Instr.opcode (.plo n)) := by decide
  exact h n

theorem phi (n : Nib) : Statement (.phi n) := by
  have h : ∀ n : Nib, (encode (.phi n)).length = instrLength (Instr.opcode (.phi n)) := by decide
  exact h n

theorem br (b : Byte) : Statement (.br b) := by
  show 2 = instrLength 0x30
  decide

theorem bq (b : Byte) : Statement (.bq b) := by
  show 2 = instrLength 0x31
  decide

theorem bz (b : Byte) : Statement (.bz b) := by
  show 2 = instrLength 0x32
  decide

theorem bdf (b : Byte) : Statement (.bdf b) := by
  show 2 = instrLength 0x33
  decide

theorem b1 (b : Byte) : Statement (.b1 b) := by
  show 2 = instrLength 0x34
  decide

theorem b2 (b : Byte) : Statement (.b2 b) := by
  show 2 = instrLength 0x35
  decide

theorem b3 (b : Byte) : Statement (.b3 b) := by
  show 2 = instrLength 0x36
  decide

theorem b4 (b : Byte) : Statement (.b4 b) := by
  show 2 = instrLength 0x37
  decide

theorem skp (b : Byte) : Statement (.skp b) := by
  show 2 = instrLength 0x38
  decide

theorem bnq (b : Byte) : Statement (.bnq b) := by
  show 2 = instrLength 0x39
  decide

theorem bnz (b : Byte) : Statement (.bnz b) := by
  show 2 = instrLength 0x3A
  decide

theorem bnf (b : Byte) : Statement (.bnf b) := by
  show 2 = instrLength 0x3B
  decide

theorem bn1 (b : Byte) : Statement (.bn1 b) := by
  show 2 = instrLength 0x3C
  decide

theorem bn2 (b : Byte) : Statement (.bn2 b) := by
  show 2 = instrLength 0x3D
  decide

theorem bn3 (b : Byte) : Statement (.bn3 b) := by
  show 2 = instrLength 0x3E
  decide

theorem bn4 (b : Byte) : Statement (.bn4 b) := by
  show 2 = instrLength 0x3F
  decide

theorem lbr (target : Word) : Statement (.lbr target) := by
  show 3 = instrLength 0xC0
  decide

theorem lbq (target : Word) : Statement (.lbq target) := by
  show 3 = instrLength 0xC1
  decide

theorem lbz (target : Word) : Statement (.lbz target) := by
  show 3 = instrLength 0xC2
  decide

theorem lbdf (target : Word) : Statement (.lbdf target) := by
  show 3 = instrLength 0xC3
  decide

theorem nop : Statement .nop := by
  show 1 = instrLength 0xC4
  decide

theorem lsnq : Statement .lsnq := by
  show 1 = instrLength 0xC5
  decide

theorem lsnz : Statement .lsnz := by
  show 1 = instrLength 0xC6
  decide

theorem lsnf : Statement .lsnf := by
  show 1 = instrLength 0xC7
  decide

theorem lskp : Statement .lskp := by
  show 1 = instrLength 0xC8
  decide

theorem lbnq (target : Word) : Statement (.lbnq target) := by
  show 3 = instrLength 0xC9
  decide

theorem lbnz (target : Word) : Statement (.lbnz target) := by
  show 3 = instrLength 0xCA
  decide

theorem lbnf (target : Word) : Statement (.lbnf target) := by
  show 3 = instrLength 0xCB
  decide

theorem lsie : Statement .lsie := by
  show 1 = instrLength 0xCC
  decide

theorem lsq : Statement .lsq := by
  show 1 = instrLength 0xCD
  decide

theorem lsz : Statement .lsz := by
  show 1 = instrLength 0xCE
  decide

theorem lsdf : Statement .lsdf := by
  show 1 = instrLength 0xCF
  decide

theorem or : Statement .or := by
  show 1 = instrLength 0xF1
  decide

theorem ori (b : Byte) : Statement (.ori b) := by
  show 2 = instrLength 0xF9
  decide

theorem and : Statement .and := by
  show 1 = instrLength 0xF2
  decide

theorem ani (b : Byte) : Statement (.ani b) := by
  show 2 = instrLength 0xFA
  decide

theorem xor : Statement .xor := by
  show 1 = instrLength 0xF3
  decide

theorem xri (b : Byte) : Statement (.xri b) := by
  show 2 = instrLength 0xFB
  decide

theorem add : Statement .add := by
  show 1 = instrLength 0xF4
  decide

theorem adi (b : Byte) : Statement (.adi b) := by
  show 2 = instrLength 0xFC
  decide

theorem adc : Statement .adc := by
  show 1 = instrLength 0x74
  decide

theorem adci (b : Byte) : Statement (.adci b) := by
  show 2 = instrLength 0x7C
  decide

theorem sd : Statement .sd := by
  show 1 = instrLength 0xF5
  decide

theorem sdi (b : Byte) : Statement (.sdi b) := by
  show 2 = instrLength 0xFD
  decide

theorem sdb : Statement .sdb := by
  show 1 = instrLength 0x75
  decide

theorem sdbi (b : Byte) : Statement (.sdbi b) := by
  show 2 = instrLength 0x7D
  decide

theorem sm : Statement .sm := by
  show 1 = instrLength 0xF7
  decide

theorem smi (b : Byte) : Statement (.smi b) := by
  show 2 = instrLength 0xFF
  decide

theorem smb : Statement .smb := by
  show 1 = instrLength 0x77
  decide

theorem smbi (b : Byte) : Statement (.smbi b) := by
  show 2 = instrLength 0x7F
  decide

theorem shr : Statement .shr := by
  show 1 = instrLength 0xF6
  decide

theorem shrc : Statement .shrc := by
  show 1 = instrLength 0x76
  decide

theorem shl : Statement .shl := by
  show 1 = instrLength 0xFE
  decide

theorem shlc : Statement .shlc := by
  show 1 = instrLength 0x7E
  decide

theorem idl : Statement .idl := by
  show 1 = instrLength 0x00
  decide

theorem sep (n : Nib) : Statement (.sep n) := by
  have h : ∀ n : Nib, (encode (.sep n)).length = instrLength (Instr.opcode (.sep n)) := by decide
  exact h n

theorem sex (n : Nib) : Statement (.sex n) := by
  have h : ∀ n : Nib, (encode (.sex n)).length = instrLength (Instr.opcode (.sex n)) := by decide
  exact h n

theorem seq : Statement .seq := by
  show 1 = instrLength 0x7B
  decide

theorem req : Statement .req := by
  show 1 = instrLength 0x7A
  decide

theorem sav : Statement .sav := by
  show 1 = instrLength 0x78
  decide

theorem mark : Statement .mark := by
  show 1 = instrLength 0x79
  decide

theorem ret : Statement .ret := by
  show 1 = instrLength 0x70
  decide

theorem dis : Statement .dis := by
  show 1 = instrLength 0x71
  decide

theorem reserved68 : Statement .reserved68 := by
  show 1 = instrLength 0x68
  decide

theorem out (port : Port) : Statement (.out port) := by cases port <;> (unfold Statement; decide)

theorem inp (port : Port) : Statement (.inp port) := by cases port <;> (unfold Statement; decide)

end Sys2Proof.Laws.EncodedLength
end

