-- ==== Sys2Proof/Tests/Slice0.lean ====
section
/-! SUPPORT. The model's own tests. Expected values come from spec/95_test_vectors.md, from the rule a test names, or from
the bit patterns of 30_encoding.md. The last part has one witness for each statement with hypotheses. -/

namespace Sys2Proof.Tests

open Sys2Proof.Machine

/-! ### Helpers -/

/-- The reset machine with `R[0]` at an address and bytes there. -/
def program (pc : Word) (bytes : List Byte) : State :=
  placeBytes { State.reset with r := State.reset.r.set 0 pc } pc bytes

/-- An opcode at 0x0100, `X = 2`, `R[2] = 0x2000` and a byte there: the start state of the vectors for 44. -/
def withOperand (bytes : List Byte) (d : Byte) (df : Bool) (m : Byte) : State :=
  { (((program 0x0100 bytes).setReg 2 0x2000).setX 2).memWrite 0x2000 m with d := d, df := df }

/-- One step answers a next state of which a check holds. -/
def stepsTo (s : State) (check : State → Bool) : Bool :=
  match step s with
  | .next t => check t
  | .fault _ => false
  | .refused _ => false

/-- One host command answers a next state of which a check holds. -/
def hostTo (s : State) (c : HostCommand) (check : State → Bool) : Bool :=
  match hostStep s c with
  | .next t => check t
  | .fault _ => false
  | .refused _ => false

/-- One host command is refused for a reason. -/
def hostRefuses (s : State) (c : HostCommand) (why : Refusal) : Bool :=
  match hostStep s c with
  | .next _ => false
  | .fault _ => false
  | .refused r => r == why

/-- A launch answers a state of which a check holds. -/
def launchTo (lc : LaunchConfig) (check : State → Bool) : Bool :=
  match launch lc with
  | .ok s => check s
  | .bad _ => false

theorem exists_of_stepsTo {s : State} {check : State → Bool} (h : stepsTo s check = true) :
    ∃ t, step s = .next t ∧ check t = true := by
  unfold stepsTo at h
  split at h
  · exact ⟨_, ‹_›, h⟩
  · cases h
  · cases h

theorem exists_of_hostTo {s : State} {c : HostCommand} {check : State → Bool} (h : hostTo s c check = true) :
    ∃ t, hostStep s c = .next t ∧ check t = true := by
  unfold hostTo at h
  split at h
  · exact ⟨_, ‹_›, h⟩
  · cases h
  · cases h

theorem exists_of_launchTo {lc : LaunchConfig} {check : State → Bool} (h : launchTo lc check = true) :
    ∃ s, launch lc = .ok s ∧ check s = true := by
  unfold launchTo at h
  split at h
  · exact ⟨_, ‹_›, h⟩
  · cases h

/-! ### WellFormed: the one ill-formed term (30_encoding.md R78) -/

theorem test_wf_refuses_ldn_of_register_zero : (Instr.ldn 0).wf = false := by decide

theorem test_wf_accepts_ldn_of_every_other_register : ∀ n : Nib, n ≠ 0 → (Instr.ldn n).wf = true := by decide

/-! ### Decoding: a word of each family, bit by bit (30_encoding.md R76) -/

theorem test_decode_transfer :
    decode [0b00000101] = .ok (.ldn 5, []) ∧ decode [0b01000101] = .ok (.lda 5, []) ∧
    decode [0b11110000] = .ok (.ldx, []) ∧ decode [0b01110010] = .ok (.ldxa, []) ∧
    decode [0b11111000, 0b10101011] = .ok (.ldi 0xAB, []) ∧ decode [0b01110011] = .ok (.stxd, []) := by decide

theorem test_decode_branches :
    decode [0b00111110, 0b00000000] = .ok (.bn3 0x00, []) ∧
    decode [0b11001010, 0b00010010, 0b00110100] = .ok (.lbnz 0x1234, []) ∧
    decode [0b11000100] = .ok (.nop, []) ∧ decode [0b11001100] = .ok (.lsie, []) := by decide

theorem test_decode_arithmetic :
    decode [0b01110101] = .ok (.sdb, []) ∧ decode [0b11111101, 0b00000101] = .ok (.sdi 5, []) ∧
    decode [0b11111110] = .ok (.shl, []) ∧ decode [0b01111110] = .ok (.shlc, []) := by decide

theorem test_decode_control_and_io :
    decode [0b00000000] = .ok (.idl, []) ∧ decode [0b01101000] = .ok (.reserved68, []) ∧
    decode [0b01100111] = .ok (.out .p7, []) ∧ decode [0b01101111] = .ok (.inp .p7, []) ∧
    decode [0b11010011] = .ok (.sep 3, []) ∧ decode [0b11100100] = .ok (.sex 4, []) := by decide

/-- A word cut short is rejected by name. -/
theorem test_decode_rejects_short_words :
    decode [] = .bad .noOpcode ∧ decode [0x30] = .bad (.truncated 2) ∧
    decode [0xC0, 0x12] = .bad (.truncated 3) := by decide

/-! ### Reset and launch (70_reset_and_hazards.md) -/

/-- R270, R271: the default configuration launches to the reset state. -/
theorem test_default_launch_is_reset : launch LaunchConfig.default = .ok State.reset := by decide

/-- R270: from reset with nothing placed, the first step runs IDL at 0x0000. -/
theorem test_reset_runs_idl :
    stepsTo State.reset (fun t => t.idle && t.reg 0 == 0x0001 && t.cycles == 2) = true := by decide

theorem test_reset_memory_is_canonical : Memory.wf State.reset.mem = true := by decide

/-- R272, 95 V-A: `START_PC` overrides `R[P]`, and the image lands at `LOAD_OFFSET`. -/
theorem test_start_address_and_image :
    launchTo { LaunchConfig.default with image := [0xF8, 0x08], loadOffset := 0x0100, startPc := some 0x0100 }
      (fun s => s.reg 0 == 0x0100 && s.memRead 0x0101 == 0x08 &&
        stepsTo s (fun t => t.d == 0x08 && t.reg 0 == 0x0102)) = true := by decide

/-- R274: the image may end at the last cell, and no further. -/
theorem test_image_at_the_end_of_memory :
    launchTo { LaunchConfig.default with image := [1, 2], loadOffset := 0xFFFE } (fun s => s.memRead 0xFFFF == 2) = true ∧
    launch { LaunchConfig.default with image := [1, 2], loadOffset := 0xFFFF } = .bad .imageTooLarge ∧
    launch { LaunchConfig.default with memSize := 65537 } = .bad .memSize := by decide

/-- R234, R274: exactly one of `CYCLE_NS` and `CLOCK_HZ`; 4 MHz is 2000 ns a cycle. -/
theorem test_cycle_length :
    launch { LaunchConfig.default with clockHz := some ⟨4000000, 1⟩ } = .bad .cycleLengthNotOne ∧
    launch { LaunchConfig.default with cycleNs := none } = .bad .cycleLengthNotOne ∧
    launchTo { LaunchConfig.default with cycleNs := none, clockHz := some ⟨4000000, 1⟩ }
      (fun s => timeAt s.cfg 1 == 2000) = true := by decide

/-- R233: `now_ns` is rounded down from the exact product, never accumulated. -/
theorem test_time_of_an_odd_clock :
    launchTo { LaunchConfig.default with cycleNs := none, clockHz := some ⟨3579545, 1⟩ }
      (fun s => [1, 2, 3, 10, 1000].map (timeAt s.cfg) == [2234, 4469, 6704, 22349, 2234920]) = true := by decide

/-- R270: every parameter a running machine consults is the configuration's, and events at time 0 are applied, the last
for a line or a port in force. -/
theorem test_launch_takes_its_parameters :
    launchTo { LaunchConfig.default with
        memSize := 256, qInvert := true, intAckCycles := 3, idlePassCycles := 4, op68Mode := .idle, ioLatchModel := .split,
        eventLog := "0,flag,ef2,0\n0,flag,ef2,1\n0,input,io7,11\n0,input,io7,22" }
      (fun s => s.cfg == ⟨256, ⟨1000, 1⟩, true, 3, 4, .idle⟩ && s.efOf .ef2 && !s.efOf .ef1 &&
        s.portIn .p7 == 0x22 && s.portOut .p7 == 0x00 && s.queue == []) = true := by decide

/-- R274: an initial value outside its width. -/
theorem test_initial_values_in_range :
    launch { LaunchConfig.default with initIe := 2 } = .bad (.invalidInitial "INIT_IE") ∧
    launch { LaunchConfig.default with initRp := 65536 } = .bad (.invalidInitial "INIT_RP") ∧
    launch { LaunchConfig.default with intAckCycles := 0 } = .bad (.costZero "INT_ACK_CYCLES") := by decide

/-- R274: a malformed log refuses the launch, with its line. -/
theorem test_malformed_log_refuses_the_launch :
    launch { LaunchConfig.default with eventLog := "1,int\n100,flag,ef5,1\n" } = .bad (.malformedLog 2 .badLine) := by
  decide

/-! ### The event log (60_exceptions.md R242, R243) -/

theorem test_log_lines_accepted :
    parseLog "110200,flag,ef3,0\n5,int\n1000,input,io2,a5\n" =
      .ok [⟨110200, .flag .ef3 false⟩, ⟨5, .interrupt⟩, ⟨1000, .input .p2 0xA5⟩] ∧
    parseLog "1000,input,io2,A5" = .ok [⟨1000, .input .p2 0xA5⟩] ∧ parseLog "" = .ok [] := by decide

theorem test_log_lines_refused :
    parseLog "100,flag,ef5,1" = .bad (1, .badLine) ∧ parseLog "100,input,io1,5" = .bad (1, .badByte) ∧
    parseLog "-5,int" = .bad (1, .badTime) ∧ parseLog "5,int,1" = .bad (1, .fieldCount) ∧
    parseLog "5,nmi" = .bad (1, .unknownKind) ∧ parseLog "\n5,int" = .bad (1, .fieldCount) ∧
    parseLog "18446744073709551616,int" = .bad (1, .badTime) := by decide

/-- What an empty last line is (the model's choice, log 5): the empty piece after the last line feed, and no other. -/
theorem test_empty_last_line :
    parseLog "5,int\n" = .ok [⟨5, .interrupt⟩] ∧ parseLog "5,int\n\n" = .bad (2, .fieldCount) ∧
    parseLog "\n" = .bad (1, .fieldCount) := by decide

/-! ### Register transfer (41_register_transfer.md) -/

theorem test_ldi : -- 95 V-A
    stepsTo (program 0x0000 [0xF8, 0x08])
      (fun t => t.d == 0x08 && t.reg 0 == 0x0002 && t.cycles == 2 && t.nowNs == 2000) = true := by decide

theorem test_ldi_wraps :
    stepsTo (program 0xFFFF [0xF8, 0x42]) (fun t => t.d == 0x42 && t.reg 0 == 0x0001) = true := by decide

theorem test_ldn :
    stepsTo (((program 0x0100 [0x05]).setReg 5 0x2000).memWrite 0x2000 0x77)
      (fun t => t.d == 0x77 && t.reg 5 == 0x2000) = true := by decide

theorem test_lda_wraps :
    stepsTo (((program 0x0100 [0x45]).setReg 5 0xFFFF).memWrite 0xFFFF 0x11)
      (fun t => t.d == 0x11 && t.reg 5 == 0x0000) = true := by decide

theorem test_lda_of_the_program_counter :
    stepsTo (program 0x0100 [0x40, 0x3C]) (fun t => t.d == 0x3C && t.reg 0 == 0x0102) = true := by decide

theorem test_ldx_and_ldxa :
    stepsTo ((((program 0x0100 [0xF0]).setX 3).setReg 3 0x0010).memWrite 0x0010 0x99)
      (fun t => t.d == 0x99 && t.reg 3 == 0x0010) = true ∧
    stepsTo ((((program 0x0100 [0x72]).setX 3).setReg 3 0x0010).memWrite 0x0010 0x99)
      (fun t => t.d == 0x99 && t.reg 3 == 0x0011) = true := by decide

theorem test_str :
    stepsTo (((program 0x0100 [0x56]).setReg 6 0x3000).setD 0x3C)
      (fun t => t.memRead 0x3000 == 0x3C && t.reg 6 == 0x3000) = true := by decide

theorem test_str_aliases_in_a_small_memory : -- 20_memory.md R50
    stepsTo { ((program 0x0100 [0x51]).setReg 1 0x1234).setD 0x99 with cfg := { Config.default with memSize := 0x1000 } }
      (fun t => t.memRead 0x0234 == 0x99 && t.memRead 0x1234 == 0x99 && t.mem.read 0x0234 == 0x99 &&
        t.mem.read 0x1234 == 0x00) = true := by decide

theorem test_stxd_wraps :
    stepsTo (((program 0x0100 [0x73]).setX 2).setD 0x5A)
      (fun t => t.memRead 0x0000 == 0x5A && t.reg 2 == 0xFFFF) = true := by decide

theorem test_increments : -- 95 V-G
    stepsTo (((program 0x0100 [0x60]).setX 2).setReg 2 0x00FF) (fun t => t.reg 2 == 0x0100) = true ∧
    stepsTo ((program 0x0100 [0x15]).setReg 5 0xFFFF) (fun t => t.reg 5 == 0x0000) = true ∧
    stepsTo (program 0x0100 [0x25]) (fun t => t.reg 5 == 0xFFFF) = true := by decide

theorem test_inc_and_dec_of_the_program_counter :
    stepsTo (program 0x0100 [0x10]) (fun t => t.reg 0 == 0x0102) = true ∧
    stepsTo (program 0x0100 [0x20]) (fun t => t.reg 0 == 0x0100) = true := by decide

theorem test_glo_and_ghi :
    stepsTo ((program 0x0100 [0x88]).setReg 8 0x1234) (fun t => t.d == 0x34) = true ∧
    stepsTo ((program 0x0100 [0x98]).setReg 8 0x1234) (fun t => t.d == 0x12) = true ∧
    stepsTo (program 0x0100 [0x80]) (fun t => t.d == 0x01) = true := by decide

theorem test_plo_and_phi :
    stepsTo (((program 0x0100 [0xA9]).setReg 9 0x1234).setD 0xCD) (fun t => t.reg 9 == 0x12CD) = true ∧
    stepsTo (((program 0x0100 [0xB9]).setReg 9 0x1234).setD 0xCD) (fun t => t.reg 9 == 0xCD34) = true ∧
    stepsTo ((program 0x0100 [0xA0]).setD 0x20) (fun t => t.reg 0 == 0x0120) = true := by decide

/-! ### Branches and skips (42_short_branch.md, 43_long_branch.md) -/

theorem test_short_branch_pages : -- 95 V-F
    stepsTo (program 0x1280 [0x30, 0x40]) (fun t => t.reg 0 == 0x1240 && t.cycles == 2) = true ∧
    stepsTo (program 0x12FE [0x30, 0x40]) (fun t => t.reg 0 == 0x1240) = true ∧
    stepsTo (program 0x12FF [0x30, 0x40]) (fun t => t.reg 0 == 0x1340) = true ∧
    stepsTo ((program 0x12FE [0x32, 0x40]).setD 1) (fun t => t.reg 0 == 0x1300) = true ∧
    stepsTo (program 0xFFFF [0x30, 0x40]) (fun t => t.reg 0 == 0x0040) = true := by decide

/-- Each short branch in the reset machine (`Q = 0`, `D = 0`, `DF = 0`, `EF = 0`): low halves of the row, then high. -/
theorem test_short_branches_of_the_reset_machine :
    ([0x30, 0x32, 0x39, 0x3B, 0x3C, 0x3D, 0x3E, 0x3F] : List Byte).all
      (fun op => stepsTo (program 0x0100 [op, 0x40]) (fun t => t.reg 0 == 0x0140)) = true ∧
    ([0x31, 0x33, 0x34, 0x35, 0x36, 0x37, 0x38, 0x3A] : List Byte).all
      (fun op => stepsTo (program 0x0100 [op, 0x40]) (fun t => t.reg 0 == 0x0102)) = true := by decide

/-- The other outcome of each: `Q = 1`, `D = 1`, `DF = 1`, `EF = 1`. -/
theorem test_short_branches_with_everything_set :
    ([0x31, 0x33, 0x34, 0x35, 0x36, 0x37, 0x3A] : List Byte).all
      (fun op => stepsTo { program 0x0100 [op, 0x40] with q := true, d := 1, df := true, ef := .replicate 4 true }
        (fun t => t.reg 0 == 0x0140)) = true ∧
    ([0x32, 0x38, 0x39, 0x3B, 0x3C, 0x3D, 0x3E, 0x3F] : List Byte).all
      (fun op => stepsTo { program 0x0100 [op, 0x40] with q := true, d := 1, df := true, ef := .replicate 4 true }
        (fun t => t.reg 0 == 0x0102)) = true := by decide

/-- One line alone decides one branch: `EF[2]`, 42_short_branch.md R126. -/
theorem test_flag_lines_are_told_apart :
    ([(0x34, 0x0102), (0x35, 0x0140), (0x36, 0x0102), (0x37, 0x0102), (0x3D, 0x0102), (0x3E, 0x0140)] :
      List (Byte × Word)).all
      (fun v => stepsTo ((program 0x0100 [v.1, 0x40]).setEf .ef2 true) (fun t => t.reg 0 == v.2)) = true := by decide

theorem test_long_branches :
    ([(0xC0, 0x1234), (0xC1, 0x0103), (0xC2, 0x1234), (0xC3, 0x0103), (0xC9, 0x1234), (0xCA, 0x0103), (0xCB, 0x1234)] :
      List (Byte × Word)).all
      (fun v => stepsTo (program 0x0100 [v.1, 0x12, 0x34]) (fun t => t.reg 0 == v.2 && t.cycles == 3)) = true ∧
    ([(0xC1, 0x1234), (0xC2, 0x0103), (0xC3, 0x1234), (0xC9, 0x0103), (0xCA, 0x1234), (0xCB, 0x0103)] :
      List (Byte × Word)).all
      (fun v => stepsTo { program 0x0100 [v.1, 0x12, 0x34] with q := true, d := 7, df := true }
        (fun t => t.reg 0 == v.2)) = true := by decide

theorem test_long_branches_wrap :
    stepsTo (program 0xFFFE [0xC0, 0xAB, 0xCD]) (fun t => t.reg 0 == 0xABCD) = true ∧
    stepsTo ((program 0xFFFD [0xC2, 0xAB, 0xCD]).setD 1) (fun t => t.reg 0 == 0x0000) = true ∧
    stepsTo (program 0xFFFE [0xC8]) (fun t => t.reg 0 == 0x0001) = true := by decide

theorem test_long_skips :
    ([(0xC4, 0x0101), (0xC5, 0x0103), (0xC6, 0x0101), (0xC7, 0x0103), (0xC8, 0x0103), (0xCC, 0x0103), (0xCD, 0x0101),
      (0xCE, 0x0103), (0xCF, 0x0101)] : List (Byte × Word)).all
      (fun v => stepsTo (program 0x0100 [v.1]) (fun t => t.reg 0 == v.2 && t.cycles == 3)) = true ∧
    ([(0xC5, 0x0101), (0xC6, 0x0103), (0xC7, 0x0101), (0xCC, 0x0101), (0xCD, 0x0103), (0xCE, 0x0101), (0xCF, 0x0103)] :
      List (Byte × Word)).all
      (fun v => stepsTo { program 0x0100 [v.1] with q := true, d := 7, df := true, ie := false }
        (fun t => t.reg 0 == v.2)) = true := by decide

/-! ### Arithmetic, logic and shifts (44_arithmetic_logic.md, 95 V-D) -/

/-- A vector: bytes, `D` and `DF` before, memory operand, `D` and `DF` after, `R[0]` after. -/
def arithmetic (bytes : List Byte) (d : Byte) (df : Bool) (m d' : Byte) (df' : Bool) (pc : Word) : Bool :=
  stepsTo (withOperand bytes d df m)
    (fun t => t.d == d' && t.df == df' && t.reg 0 == pc && t.reg 2 == 0x2000 && t.cycles == 2)

theorem test_logic :
    arithmetic [0xF1] 0x0F false 0xF0 0xFF false 0x0101 = true ∧
    arithmetic [0xF9, 0x81] 0x01 false 0 0x81 false 0x0102 = true ∧
    arithmetic [0xF2] 0xF0 true 0x3C 0x30 true 0x0101 = true ∧
    arithmetic [0xFA, 0x0F] 0xAB true 0 0x0B true 0x0102 = true ∧
    arithmetic [0xF3] 0xFF false 0x0F 0xF0 false 0x0101 = true ∧
    arithmetic [0xFB, 0xFF] 0x5A false 0 0xA5 false 0x0102 = true := by decide

theorem test_add :
    arithmetic [0xF4] 0x80 false 0x80 0x00 true 0x0101 = true ∧
    arithmetic [0xF4] 0x01 true 0x01 0x02 false 0x0101 = true ∧
    arithmetic [0xFC, 0x01] 0xFE true 0 0xFF false 0x0102 = true ∧
    arithmetic [0xFC, 0x01] 0xFF false 0 0x00 true 0x0102 = true := by decide

theorem test_add_with_carry :
    arithmetic [0x74] 0xFF true 0x00 0x00 true 0x0101 = true ∧
    arithmetic [0x74] 0xFF true 0xFF 0xFF true 0x0101 = true ∧
    arithmetic [0x7C, 0x01] 0x10 true 0 0x12 false 0x0102 = true ∧
    arithmetic [0x7C, 0x7F] 0x80 true 0 0x00 true 0x0102 = true := by decide

theorem test_subtract_d :
    arithmetic [0xF5] 0x01 false 0x10 0x0F true 0x0101 = true ∧
    arithmetic [0xF5] 0x02 true 0x01 0xFF false 0x0101 = true ∧
    arithmetic [0xFD, 0x05] 0x05 false 0 0x00 true 0x0102 = true ∧
    arithmetic [0xFD, 0x00] 0x01 true 0 0xFF false 0x0102 = true := by decide

theorem test_subtract_d_with_borrow :
    arithmetic [0x75] 0x01 false 0x10 0x0E true 0x0101 = true ∧
    arithmetic [0x75] 0x00 false 0x00 0xFF false 0x0101 = true ∧
    arithmetic [0x7D, 0x00] 0x00 true 0 0x00 true 0x0102 = true ∧
    arithmetic [0x7D, 0x10] 0x01 false 0 0x0E true 0x0102 = true := by decide

theorem test_subtract_memory :
    arithmetic [0xF7] 0x10 false 0x01 0x0F true 0x0101 = true ∧
    arithmetic [0xF7] 0x00 true 0x01 0xFF false 0x0101 = true ∧
    arithmetic [0xFF, 0x01] 0x01 false 0 0x00 true 0x0102 = true ∧
    arithmetic [0xFF, 0x01] 0x00 true 0 0xFF false 0x0102 = true := by decide

theorem test_subtract_memory_with_borrow :
    arithmetic [0x77] 0x10 false 0x01 0x0E true 0x0101 = true ∧
    arithmetic [0x77] 0x00 false 0x00 0xFF false 0x0101 = true ∧
    arithmetic [0x7F, 0x00] 0x00 false 0 0xFF false 0x0102 = true ∧
    arithmetic [0x7F, 0x01] 0x10 true 0 0x0F true 0x0102 = true := by decide

theorem test_shifts :
    arithmetic [0xF6] 0x81 false 0 0x40 true 0x0101 = true ∧ arithmetic [0x76] 0x81 true 0 0xC0 true 0x0101 = true ∧
    arithmetic [0x76] 0x02 false 0 0x01 false 0x0101 = true ∧ arithmetic [0xFE] 0x81 false 0 0x02 true 0x0101 = true ∧
    arithmetic [0x7E] 0x81 true 0 0x03 true 0x0101 = true ∧
    arithmetic [0x7E] 0x40 false 0 0x80 false 0x0101 = true := by decide

/-- R160: with `X = P` the operand is the byte after the opcode, which is then fetched next. -/
theorem test_add_through_the_program_counter :
    stepsTo ((program 0x0100 [0xF4, 0x05]).setD 1) (fun t => t.d == 0x06 && t.reg 0 == 0x0101) = true := by decide

/-! ### Control (45_control.md) -/

theorem test_idl_and_the_idle_pass :
    stepsTo (program 0x0100 [0x00]) (fun t => t.idle && t.reg 0 == 0x0101 && t.cycles == 2 &&
      stepsTo t (fun u => u.idle && u.reg 0 == 0x0101 && u.cycles == 3)) = true := by decide

theorem test_sep_and_sex :
    stepsTo ((program 0x0100 [0xD3]).setReg 3 0x0200) (fun t => t.p == 3 && t.reg 0 == 0x0101 && t.pc == 0x0200) = true ∧
    stepsTo (program 0x0100 [0xE4]) (fun t => t.x == 4) = true := by decide

theorem test_seq_and_req :
    stepsTo { program 0x0100 [0x7B] with cfg := { Config.default with qInvert := true } }
      (fun t => t.q && !t.qOut) = true ∧
    stepsTo ((program 0x0100 [0x7A]).setQ true) (fun t => !t.q && !t.qOut) = true := by decide

theorem test_sav :
    stepsTo (((program 0x0100 [0x78]).setX 2).setReg 2 0x007F |>.setT 0x53)
      (fun t => t.memRead 0x007F == 0x53 && t.reg 2 == 0x007F) = true := by decide

theorem test_mark :
    stepsTo ((((program 0x0000 []).setReg 3 0x0100).memWrite 0x0100 0x79).setReg 2 0x7FFF |>.setX 5 |>.setP 3)
      (fun t => t.t == 0x53 && t.memRead 0x7FFF == 0x53 && t.x == 3 && t.p == 3 && t.reg 2 == 0x7FFE) = true := by decide

theorem test_mark_wraps :
    stepsTo ((program 0x0100 [0x79]).setX 1)
      (fun t => t.t == 0x10 && t.memRead 0x0000 == 0x10 && t.x == 0 && t.reg 2 == 0xFFFF) = true := by decide

theorem test_ret :
    stepsTo ((((program 0x0100 [0x70]).setReg 2 0x7FFF).memWrite 0x7FFF 0x53).setX 2 |>.setIe false)
      (fun t => t.reg 2 == 0x8000 && t.x == 5 && t.p == 3 && t.ie) = true := by decide

theorem test_ret_with_x_equal_p :
    stepsTo ((program 0x0100 [0x70, 0x00]).setIe false)
      (fun t => t.reg 0 == 0x0102 && t.x == 0 && t.p == 0 && t.ie) = true := by decide

theorem test_dis :
    stepsTo ((((program 0x0100 [0x71]).setReg 2 0x1000).memWrite 0x1000 0x22).setX 2)
      (fun t => t.reg 2 == 0x1001 && t.x == 2 && t.p == 2 && !t.ie && t.pc == 0x1001) = true := by decide

theorem test_reserved68 :
    stepsTo (program 0x0100 [0x68]) (fun t => !t.idle && t.reg 0 == 0x0101 && t.cycles == 2) = true ∧
    stepsTo { program 0x0100 [0x68] with cfg := { Config.default with op68Mode := .idle } }
      (fun t => t.idle && t.reg 0 == 0x0101 && t.cycles == 2) = true := by decide

/-! ### Input and output (46_io.md) -/

/-- The `split` latches with one input latch set. -/
def splitLatches (port : Port) (b : Byte) : Latches := (Latches.split (.replicate 7 0) (.replicate 7 0)).setInput port b

theorem test_out :
    stepsTo (withOperand [0x64] 0 false 0xC3) (fun t => t.portOut .p4 == 0xC3 && t.reg 2 == 0x2001 && t.d == 0) = true ∧
    stepsTo (program 0x0100 [0x61, 0x55]) (fun t => t.portOut .p1 == 0x55 && t.reg 0 == 0x0102) = true := by decide

theorem test_inp_shared :
    stepsTo ((withOperand [0x69] 0 false 0).setPortIn .p1 0x5A)
      (fun t => t.memRead 0x2000 == 0x5A && t.d == 0x5A && t.reg 2 == 0x2000) = true ∧
    stepsTo (withOperand [0x63, 0x6B] 0 false 0x77) (fun t => stepsTo t (fun u => u.d == 0x77)) = true := by decide

theorem test_inp_split :
    stepsTo { withOperand [0x63, 0x6B] 0 false 0x77 with latches := splitLatches .p3 0x10 }
      (fun t => stepsTo t (fun u => u.d == 0x10 && u.portOut .p3 == 0x77)) = true := by decide

/-! ### Interrupts, clock and events (60_exceptions.md) -/

/-- A pending request with `X = 0xA`, `P = 0xF`, an idle machine and `INT_ACK_CYCLES = 3`. -/
def pendingRequest : State :=
  { ((State.reset.setX 0xA).setP 0xF).setReg 1 0x0040 with
    intPending := true, idle := true, cfg := { Config.default with intAckCycles := 3 } }

theorem test_acknowledgement : -- R223, R224
    stepsTo pendingRequest
      (fun t => t.t == 0xAF && t.x == 2 && t.p == 1 && t.pc == 0x0040 && !t.ie && !t.intPending && !t.idle &&
        t.cycles == 3) = true := by decide

theorem test_masked_request_waits : -- R222, 95 V-C C3
    stepsTo { program 0x0000 [0xF8, 0x08] with ie := false, intPending := true }
      (fun t => t.d == 0x08 && t.intPending) = true := by decide

theorem test_launch_event_is_taken_first : -- 95 V-C C1
    launchTo { LaunchConfig.default with image := [0xF8, 0x08], eventLog := "0,int" }
      (fun s => stepsTo s (fun t => t.t == 0x00 && t.x == 2 && t.p == 1 && t.cycles == 1 && t.reg 0 == 0 && t.d == 0)) =
      true := by decide

theorem test_events_at_a_boundary : -- R237: 2000 ns is due after the first instruction, 2001 ns is not
    stepsTo { program 0x0000 [0xF8, 0x08] with queue := [⟨2000, .flag .ef2 true⟩, ⟨2001, .interrupt⟩] }
      (fun t => t.efOf .ef2 && !t.intPending && t.queue == [⟨2001, .interrupt⟩]) = true := by decide

theorem test_equal_times_keep_the_log_order : -- 95 V-H
    launchTo { LaunchConfig.default with eventLog := "1000,input,io2,aa\n500,input,io2,bb\n1000,flag,ef1,1\n1000,flag,ef1,0" }
      (fun s => stepsTo s (fun t => t.portIn .p2 == 0xAA && !t.efOf .ef1 && t.queue == [])) = true := by decide

theorem test_time_to_boundary : -- R235
    (program 0x0000 [0xC0]).timeToBoundary = 3000 ∧
    { program 0x0000 [0xC0] with intPending := true }.timeToBoundary = 1000 := by decide

/-! ### The host (60_exceptions.md R245, R246) -/

theorem test_injection_order :
    hostTo (State.reset.setQueue [⟨2000, .flag .ef2 false⟩, ⟨2001, .interrupt⟩]) (.inject ⟨2000, .flag 2 1⟩)
      (fun t => t.queue == [⟨2000, .flag .ef2 false⟩, ⟨2000, .flag .ef2 true⟩, ⟨2001, .interrupt⟩]) = true := by decide

theorem test_pokes_at_the_edge_of_their_range :
    hostTo State.reset (.poke (.p 15)) (fun t => t.p == 15) = true ∧
    hostRefuses State.reset (.poke (.p 16)) .outOfRange = true ∧
    hostTo State.reset (.poke (.mem 65535 255)) (fun t => t.memRead 0xFFFF == 0xFF) = true ∧
    hostRefuses State.reset (.poke (.mem 65536 0)) .outOfRange = true ∧
    hostTo State.reset (.poke (.ef 4 1)) (fun t => t.efOf .ef4) = true ∧
    hostRefuses State.reset (.poke (.ef 5 1)) .outOfRange = true ∧
    hostTo State.reset (.poke (.r 15 65535)) (fun t => t.reg 15 == 0xFFFF) = true ∧
    hostRefuses State.reset (.poke (.r 16 0)) .outOfRange = true := by decide

theorem test_stop_and_no_iteration : -- R230
    hostTo State.reset .stop (fun t => step t matches .fault .halted) = true := by decide

/-! ### Fetching a placed word -/

theorem test_fetch_word :
    stepsTo (State.reset.withFetchWord 8 0xC0) (fun t => t.reg 0 == 0x0000 && t.cycles == 3) = true ∧
    stepsTo (State.reset.withFetchWord 16 0x08F8) (fun t => t.d == 0x08) = true ∧
    decodeTableWord 16 0x08F8 = some (.ldi 0x08) := by decide

/-! ### Witnesses: for each statement with hypotheses, values that meet all of them -/

/-- The reset machine with LDI 8 at 0x0000 and an interrupt due at 2000 ns, when the LDI ends. -/
def loading : State := { program 0x0000 [0xF8, 0x08] with queue := [⟨2000, .interrupt⟩, ⟨2001, .flag .ef1 true⟩] }

/-- A machine idling with no request. -/
def idling : State := State.reset.setIdle true

theorem loading_inv : loading.Inv := ⟨by decide, by decide, by decide, by decide, by decide⟩

theorem witness_DecodeUndoesEncode : (Instr.ldn 1).wf = true ∧ (Instr.ldn 15).wf = true := by decide

theorem witness_EncodeUndoesDecode : decode [0xC0, 0x12, 0x34, 0x56] = .ok (.lbr 0x1234, [0x56]) := by decide

theorem witness_EveryOpcodeByteSelectsOneInstruction :
    (Instr.bz 7).wf = true ∧ (Instr.bz 7).opcode = 0x32 ∧
      (Instr.bz 7).operandBytes = (decodeOp 0x32 0x07 0x00).operandBytes := by decide

theorem witness_StepRunsTheDecodedInstruction :
    loading.run = .running ∧ loading.interruptTaken = false ∧ loading.idle = false ∧
      decode loading.fetchBytes = .ok (.ldi 8, [0]) ∧ ∃ t, exec (.ldi 8) loading.afterFetch = .next t :=
  ⟨by decide, by decide, by decide, by decide, _, rfl⟩

/-- The last time that fits, and the first that does not, with a cycle of 1 ns. -/
theorem witness_AnIterationEndsWithTheDueEvents :
    (2 ^ 64 - 1) * (⟨1, 1⟩ : Ratio).num / (⟨1, 1⟩ : Ratio).den < 2 ^ 64 ∧
      2 ^ 64 ≤ 2 ^ 64 * (⟨1, 1⟩ : Ratio).num / (⟨1, 1⟩ : Ratio).den := by decide

theorem witness_EveryRunningMachineSteps :
    loading.run = .running ∧ timeAt loading.cfg (loading.cycles + loading.nextCost) < 2 ^ 64 := by decide

theorem witness_AnInstructionCostsTwoOrThreeCyclesByItsOpcode :
    loading.run = .running ∧ loading.interruptTaken = false ∧ loading.idle = false ∧ ∃ t, step loading = .next t := by
  obtain ⟨t, ht, -⟩ := exists_of_stepsTo (s := loading) (check := fun t => t.d == 8) (by decide)
  exact ⟨by decide, by decide, by decide, t, ht⟩

theorem witness_TimeToBoundaryIsWhatTheNextStepTakes : ∃ t, step loading = .next t ∧ t.nowNs = 2000 := by
  obtain ⟨t, ht, hc⟩ := exists_of_stepsTo (s := loading) (check := fun t => t.nowNs == 2000) (by decide)
  exact ⟨t, ht, by simpa using hc⟩

theorem witness_CyclesOnlyGrowAndNoInstructionSeesThem :
    (∃ lc s, launch lc = .ok s) ∧ (∃ s t, hostStep s .stepOne = .next t ∧ s.cycles < t.cycles) ∧
    (∃ s t, hostStep s .stop = .next t ∧ HostCommand.stop ≠ .stepOne) ∧
    (∃ s t, exec (.inc 1) s = .next t) := by
  obtain ⟨t, ht, hc⟩ := exists_of_hostTo (s := loading) (c := .stepOne) (check := fun t => t.cycles == 2) (by decide)
  have hc : t.cycles = 2 := by simpa using hc
  exact ⟨⟨_, _, test_default_launch_is_reset⟩, ⟨loading, t, ht, by rw [hc]; decide⟩, ⟨loading, _, rfl, by decide⟩,
    ⟨loading, _, rfl⟩⟩

theorem witness_AnEnabledRequestIsAcknowledged :
    pendingRequest.run = .running ∧ pendingRequest.intPending = true ∧ pendingRequest.ie = true ∧
      timeAt pendingRequest.cfg (pendingRequest.cycles + pendingRequest.cfg.intAckCycles) < 2 ^ 64 := by decide

/-- The three clauses: a taken request, an idle machine, an instruction, the last with a masked request. -/
theorem witness_AnInterruptIsTakenExactlyWhenPendingAndEnabled :
    (pendingRequest.run = .running ∧ pendingRequest.intPending = true ∧ pendingRequest.ie = true) ∧
    (idling.run = .running ∧ idling.intPending = false ∧ idling.idle = true) ∧
    ((pendingRequest.setIe false).ie = false ∧ ((pendingRequest.setIe false).setIdle false).idle = false) := by decide

theorem witness_ARequestStaysUntilAcknowledged :
    ∃ t, hostStep pendingRequest .stepOne = .next t ∧ pendingRequest.intPending = true ∧ t.intPending = false := by
  obtain ⟨t, ht, hc⟩ := exists_of_hostTo (s := pendingRequest) (c := .stepOne) (check := fun t => !t.intPending) (by decide)
  exact ⟨t, ht, by decide, by simpa using hc⟩

theorem witness_AnIdlePassOnlyChargesAndAppliesEvents :
    idling.run = .running ∧ idling.interruptTaken = false ∧ idling.idle = true ∧
      timeAt idling.cfg (idling.cycles + idling.cfg.idlePassCycles) < 2 ^ 64 := by decide

/-- Both ways out of the idle state. -/
theorem witness_IdleEndsOnlyByAcknowledgementOrHost :
    (∃ t, hostStep pendingRequest .stepOne = .next t ∧ pendingRequest.idle = true ∧ t.idle = false) ∧
    (∃ t, hostStep idling (.poke .clearIdle) = .next t ∧ idling.idle = true ∧ t.idle = false) := by
  obtain ⟨t, ht, hc⟩ := exists_of_hostTo (s := pendingRequest) (c := .stepOne) (check := fun t => !t.idle) (by decide)
  exact ⟨⟨t, ht, by decide, by simpa using hc⟩, ⟨_, rfl, by decide, rfl⟩⟩

/-- One event is due at the boundary and one is not. -/
theorem witness_AStepConsumesExactlyTheDueEvents :
    loading.Inv ∧ ∃ t, step loading = .next t ∧ t.queue = [⟨2001, .flag .ef1 true⟩] := by
  obtain ⟨t, ht, hc⟩ :=
    exists_of_stepsTo (s := loading) (check := fun t => t.queue == [⟨2001, .flag .ef1 true⟩]) (by decide)
  exact ⟨loading_inv, t, ht, by simpa using hc⟩

theorem witness_TheLastDueEventWins :
    State.reset.latches.model = .shared ∧ (splitLatches .p3 0x10).model = .split := by decide

theorem witness_TheQueueIsTheStableSortOfTheLog : ∃ lc s, launch lc = .ok s ∧ s.queue ≠ [] := by
  obtain ⟨s, hs, hc⟩ := exists_of_launchTo (lc := { LaunchConfig.default with eventLog := "7,int\n0,int\n5,int" })
    (check := fun s => s.queue == [⟨5, .interrupt⟩, ⟨7, .interrupt⟩]) (by decide)
  exact ⟨_, s, hs, by rw [eq_of_beq hc]; decide⟩

/-- The last line and the last port in range, an interrupt, and the first numbers out of range. -/
theorem witness_AnInjectedEventTakesItsPlace :
    loading.Inv ∧
    (⟨2 ^ 64 - 1, .flag 4 1⟩ : RawEvent).checked = some ⟨18446744073709551615, .flag .ef4 true⟩ ∧
    (⟨0, .input 7 255⟩ : RawEvent).checked = some ⟨0, .input .p7 0xFF⟩ ∧
    (⟨0, .interrupt⟩ : RawEvent).checked = some ⟨0, .interrupt⟩ ∧
    (⟨2 ^ 64, .interrupt⟩ : RawEvent).checked = none ∧ (⟨0, .flag 5 1⟩ : RawEvent).checked = none ∧
    (⟨0, .flag 0 1⟩ : RawEvent).checked = none ∧ (⟨0, .input 8 0⟩ : RawEvent).checked = none ∧
    (⟨0, .input 1 256⟩ : RawEvent).checked = none :=
  ⟨loading_inv, by decide, by decide, by decide, by decide, by decide, by decide, by decide, by decide⟩

/-- The three forms of a line at the ends of their ranges, and the first time that does not fit; a text whose last line a
line feed ends, one whose last line the text ends, and the empty text; and a log whose second line is the first bad one. -/
theorem witness_WhichLogLinesAreAccepted :
    parseLine "18446744073709551615,flag,ef4,1".toList = .ok ⟨18446744073709551615, .flag .ef4 true⟩ ∧
    parseLine "18446744073709551616,int".toList = .bad .badTime ∧
    parseLine "0,int".toList = .ok ⟨0, .interrupt⟩ ∧
    parseLine "0,input,io7,fF".toList = .ok ⟨0, .input .p7 0xFF⟩ ∧
    IsLinesOf ["0,int".toList] "0,int\n".toList ∧ IsLinesOf ["0,int".toList] "0,int".toList ∧ IsLinesOf [] "".toList ∧
    (IsLinesOf (["0,int".toList] ++ [] :: ["1,int".toList]) "0,int\n\n1,int".toList ∧
      (∀ l ∈ ["0,int".toList], ∃ e, parseLine l = .ok e) ∧ parseLine [] = .bad .fieldCount) := by
  refine ⟨by decide, by decide, by decide, by decide, ⟨by decide, .inl (by decide)⟩, ⟨by decide, .inr (by decide)⟩,
    ⟨by decide, .inl (by decide)⟩, ⟨by decide, .inr (by decide)⟩, fun l hl => ?_, by decide⟩
  rw [List.mem_singleton.mp hl]
  exact ⟨⟨0, .interrupt⟩, by decide⟩

theorem witness_EveryStepKeepsTheInvariant : loading.Inv ∧ ∃ t, step loading = .next t := by
  obtain ⟨t, ht, -⟩ := exists_of_stepsTo (s := loading) (check := fun _ => true) (by decide)
  exact ⟨loading_inv, t, ht⟩

/-- A launch; each kind of host command on a state of the invariant; a reached state. -/
theorem witness_EveryReachableStateMeetsTheInvariant :
    (∃ lc s, launch lc = .ok s) ∧
    (loading.Inv ∧ (∃ t, hostStep loading .stepOne = .next t) ∧ (∃ t, hostStep loading (.poke (.mem 65535 255)) = .next t) ∧
      (∃ t, hostStep loading (.inject ⟨2 ^ 64 - 1, .interrupt⟩) = .next t) ∧ (∃ t, hostStep loading .stop = .next t)) ∧
    Reachable State.reset ∧ ∃ t, hostStep State.reset .stepOne = .next t ∧ Reachable t := by
  have h : Reachable State.reset := .launched _ _ test_default_launch_is_reset
  obtain ⟨t, ht, -⟩ := exists_of_hostTo (s := State.reset) (c := .stepOne) (check := fun _ => true) (by decide)
  obtain ⟨u, hu, -⟩ := exists_of_stepsTo (s := loading) (check := fun _ => true) (by decide)
  exact ⟨⟨_, _, test_default_launch_is_reset⟩, ⟨loading_inv, ⟨u, hu⟩, ⟨_, rfl⟩, ⟨_, rfl⟩, ⟨_, rfl⟩⟩, h, t, ht,
    .commanded _ _ _ h ht⟩

theorem witness_MemoriesThatReadAlikeAreEqual : Memory.wf [(0, 0x11), (65535, 0x22)] = true := by decide

/-- A launch with an event at time 0, and one with none. -/
theorem witness_LaunchValues :
    (∃ s log, launch { LaunchConfig.default with image := [0xF8, 0x08], eventLog := "0,int" } = .ok s ∧
      parseLog "0,int" = .ok log ∧ ∃ e ∈ log, e.time = 0 ∧ e.kind = .interrupt) ∧
    (∃ s log, launch { LaunchConfig.default with eventLog := "1,int", initEf := .replicate 4 1 } = .ok s ∧
      parseLog "1,int" = .ok log ∧ ∀ e ∈ log, e.time ≠ 0) := by
  obtain ⟨s, hs, -⟩ := exists_of_launchTo
    (lc := { LaunchConfig.default with image := [0xF8, 0x08], eventLog := "0,int" }) (check := fun _ => true) (by decide)
  obtain ⟨u, hu, -⟩ := exists_of_launchTo
    (lc := { LaunchConfig.default with eventLog := "1,int", initEf := .replicate 4 1 }) (check := fun _ => true) (by decide)
  exact ⟨⟨s, [⟨0, .interrupt⟩], hs, by decide, by decide⟩, ⟨u, [⟨1, .interrupt⟩], hu, by decide, by decide⟩⟩

/-- Neither parameter, both, `CYCLE_NS` alone and `CLOCK_HZ` alone. -/
theorem witness_CycleLengthComesFromExactlyOneParameter :
    (none : Option Ratio).isSome = (none : Option Ratio).isSome ∧
    (some (⟨1, 1⟩ : Ratio)).isSome = (some (⟨2, 1⟩ : Ratio)).isSome ∧
    (∃ s, launch LaunchConfig.default = .ok s ∧ LaunchConfig.default.cycleNs = some ⟨1000, 1⟩) ∧
    (∃ s, launch { LaunchConfig.default with cycleNs := none, clockHz := some ⟨4000000, 1⟩ } = .ok s) := by
  obtain ⟨s, hs, -⟩ := exists_of_launchTo
    (lc := { LaunchConfig.default with cycleNs := none, clockHz := some ⟨4000000, 1⟩ }) (check := fun _ => true) (by decide)
  exact ⟨rfl, rfl, ⟨_, test_default_launch_is_reset, rfl⟩, s, hs⟩

/-- Every clause: the last values in range under both latch models, the first values out of range. -/
theorem witness_ALatchPokeSetsItsLatchOrIsRefused :
    (255 < 256 ∧ State.reset.latches.model = .shared) ∧ (255 < 256 ∧ (splitLatches .p7 0).model = .split) ∧
    ((0 < 1 ∨ 7 < 0 ∨ 256 ≤ 0) ∧ (8 < 1 ∨ 7 < 8 ∨ 256 ≤ 0) ∧ (1 < 1 ∨ 7 < 1 ∨ 256 ≤ 256)) := by decide

theorem witness_LoadsGiveDTheirByte : (1 : Nib) ≠ 0 ∧ (15 : Nib) ≠ 0 := by decide

theorem witness_LongBranches :
    (0x1234 : Word).toNat = 256 * (0x12 : Byte).toNat + (0x34 : Byte).toNat ∧
    (0xFFFF : Word).toNat = 256 * (0xFF : Byte).toNat + (0xFF : Byte).toNat := by decide

theorem witness_NineRotationsAreTheIdentity :
    (∃ t, exec .shrc State.reset = .next t) ∧ ∃ t, exec .shlc State.reset = .next t := ⟨⟨_, rfl⟩, _, rfl⟩

theorem witness_IdlAndTheReservedOpcode :
    State.reset.cfg.op68Mode = .nop ∧ ({ Config.default with op68Mode := .idle } : Config).op68Mode = .idle := by decide

theorem witness_OutSendsMemoryToItsLatch :
    Port.p1 ≠ .p2 ∧ State.reset.latches.model = .shared ∧ (splitLatches .p1 0).model = .split := by decide

theorem witness_InpStoresItsLatchInMemoryAndD :
    State.reset.latches = .shared (.replicate 7 0) ∧
    ({ State.reset with latches := .split (.replicate 7 0) (.replicate 7 1) } : State).latches =
      .split (.replicate 7 0) (.replicate 7 1) := ⟨rfl, rfl⟩

theorem witness_OnlyArithmeticAndShiftsWriteDF :
    ∃ t, exec .shr (State.reset.setD 1) = .next t ∧ t.df ≠ (State.reset.setD 1).df := ⟨_, rfl, by decide⟩

/-- One instruction for each part of the control state that one writes. -/
theorem witness_WhoWritesTheControlState :
    (∃ t, exec (.sep 3) State.reset = .next t ∧ t.p ≠ State.reset.p) ∧
    (∃ t, exec (.sex 3) State.reset = .next t ∧ t.x ≠ State.reset.x) ∧
    (∃ t, exec .mark (State.reset.setX 1) = .next t ∧ t.t ≠ (State.reset.setX 1).t) ∧
    (∃ t, exec .dis State.reset = .next t ∧ t.ie ≠ State.reset.ie) ∧
    (∃ t, exec .seq State.reset = .next t ∧ t.q ≠ State.reset.q) ∧
    (∃ t, exec .idl State.reset = .next t ∧ t.idle ≠ State.reset.idle) ∧
    (∃ t, exec (.out .p1) (program 0 [7]) = .next t ∧ t.latches ≠ (program 0 [7]).latches) :=
  ⟨⟨_, rfl, by decide⟩, ⟨_, rfl, by decide⟩, ⟨_, rfl, by decide⟩, ⟨_, rfl, by decide⟩, ⟨_, rfl, by decide⟩,
    ⟨_, rfl, by decide⟩, ⟨_, rfl, by decide⟩⟩

/-- A store by an instruction, by a step and by a poke. -/
theorem witness_WhoWritesMemory :
    (∃ t, exec (.str 1) (State.reset.setD 9) = .next t ∧ t.mem ≠ (State.reset.setD 9).mem) ∧
    (∃ t, step ((program 0 [0x51]).setD 9) = .next t ∧ t.mem ≠ ((program 0 [0x51]).setD 9).mem) ∧
    (∃ t, hostStep State.reset (.poke (.mem 0 1)) = .next t ∧ t.mem ≠ State.reset.mem) := by
  obtain ⟨t, ht, hc⟩ := exists_of_stepsTo (s := (program 0 [0x51]).setD 9)
    (check := fun t => decide (t.mem ≠ ((program 0 [0x51]).setD 9).mem)) (by decide)
  exact ⟨⟨_, rfl, by decide⟩, ⟨t, ht, of_decide_eq_true hc⟩, ⟨_, rfl, by decide⟩⟩

end Sys2Proof.Tests
end

section
/-! PROOFS. The host's commands and the launch, inverted once each; what no instruction reads; and the cycle counter. -/

namespace Sys2Proof.Machine

/-! ### What a host command answers, inverted -/

theorem pokeWith_eq_next {α : Type} {value : Option α} {set : α → State} {t : State}
    (h : pokeWith value set = .next t) : ∃ v, value = some v ∧ t = set v := by
  cases value with
  | none => cases h
  | some v => exact ⟨v, rfl, (Host.Outcome.next.inj h).symm⟩

theorem pokeAt_eq_next {α β : Type} {index : Option α} {value : Option β} {set : α → β → State} {t : State}
    (h : pokeAt index value set = .next t) : ∃ i v, index = some i ∧ value = some v ∧ t = set i v := by
  cases index with
  | none => cases h
  | some i =>
    cases value with
    | none => cases h
    | some v => exact ⟨i, v, rfl, rfl, (Host.Outcome.next.inj h).symm⟩

theorem pokeLatch_eq_next {s t : State} {wanted : IoLatchModel} {port v : Nat} {set : Port → Byte → State}
    (h : pokeLatch s wanted port v set = .next t) :
    s.latches.model = wanted ∧ ∃ p b, Port.ofNumber port = some p ∧ fitBits 8 v = some b ∧ t = set p b := by
  unfold pokeLatch at h
  split at h
  · exact ⟨‹_›, pokeAt_eq_next h⟩
  · cases h

/-- The parameters and the state of the synchroniser and the clock are no poke's to write (60_exceptions.md R245). -/
theorem hostPoke_keeps_synchroniser {poke : Poke} {s t : State} (h : hostPoke s poke = .next t) :
    t.cfg = s.cfg ∧ t.intPending = s.intPending ∧ t.cycles = s.cycles ∧ t.queue = s.queue ∧ t.run = s.run := by
  cases poke
  case d | df | p | x | t | ie | q =>
    obtain ⟨_, _, rfl⟩ := pokeWith_eq_next h
    exact ⟨rfl, rfl, rfl, rfl, rfl⟩
  case r | ef | mem =>
    obtain ⟨_, _, _, _, rfl⟩ := pokeAt_eq_next h
    exact ⟨rfl, rfl, rfl, rfl, rfl⟩
  case port | outPort | inPort =>
    obtain ⟨_, _, _, _, _, rfl⟩ := pokeLatch_eq_next h
    exact ⟨rfl, rfl, rfl, rfl, rfl⟩
  case clearIdle =>
    cases h
    exact ⟨rfl, rfl, rfl, rfl, rfl⟩

/-- An injection that is not refused places its checked event, and changes the queue alone. -/
theorem hostInject_eq_next {s t : State} {event : RawEvent} (h : hostInject s event = .next t) :
    ∃ e, event.checked = some e ∧ t = s.setQueue (insertEvent e s.queue) := pokeWith_eq_next h

/-! ### The launch, inverted -/

/-- A launch that is not refused passed every check of 70_reset_and_hazards.md R274, and is the launch state of the
checked values after the first `ApplyEvents()`. -/
theorem launch_eq_ok {lc : LaunchConfig} {s : State} (h : launch lc = .ok s) :
    checkSizes lc = none ∧ ∃ cycleNs rp ie q ef startPc log,
      cycleLength lc.cycleNs lc.clockHz = .ok cycleNs ∧ initialWord "INIT_RP" lc.initRp = .ok rp ∧
      initialBit "INIT_IE" lc.initIe = .ok ie ∧ initialBit "INIT_Q" lc.initQ = .ok q ∧ initialEf lc.initEf = .ok ef ∧
      startAddress lc.startPc = .ok startPc ∧ parseLog lc.eventLog = .ok log ∧
      s = (launchState lc cycleNs rp ie q ef startPc log).applyEvents := by
  unfold launch at h
  iterate 8
    split at h
    · cases h
  cases h
  exact ⟨‹_›, _, _, _, _, _, _, _, ‹_›, ‹_›, ‹_›, ‹_›, ‹_›, ‹_›, ‹_›, rfl⟩

@[simp] theorem launchState_cycles (lc : LaunchConfig) (cycleNs : Ratio) (rp : Word) (ie q : Bool) (ef : Vector Bool 4)
    (startPc : Option Word) (log : List Event) : (launchState lc cycleNs rp ie q ef startPc log).cycles = 0 := by
  cases startPc <;> rfl

/-! ### What no instruction reads -/

/-- A change, field by field, of what is the loop's or the host's alone: the clock, the synchroniser, the run state and
`Q_INVERT`. -/
structure UnseenChange where
  cycles : Nat → Nat := id
  intPending : Bool → Bool := id
  queue : List Event → List Event := id
  run : RunState → RunState := id
  qInvert : Bool → Bool := id

namespace State

/-- The state with the change made; with `{ cycles := fun _ => c }` it is `{ s with cycles := c }`. -/
def changeUnseen (s : State) (f : UnseenChange) : State :=
  { s with
    cfg := { s.cfg with qInvert := f.qInvert s.cfg.qInvert }
    intPending := f.intPending s.intPending
    cycles := f.cycles s.cycles
    queue := f.queue s.queue
    run := f.run s.run }

variable (s : State) (f : UnseenChange)

theorem shortBranch_changeUnseen (c : Bool) (b : Byte) :
    (s.changeUnseen f).shortBranch c b = (s.shortBranch c b).changeUnseen f := by cases c <;> rfl

theorem longBranch_changeUnseen (c : Bool) (a : Word) :
    (s.changeUnseen f).longBranch c a = (s.longBranch c a).changeUnseen f := by cases c <;> rfl

theorem longSkip_changeUnseen (c : Bool) :
    (s.changeUnseen f).longSkip c = (s.longSkip c).changeUnseen f := by cases c <;> rfl

end State

/-- No instruction reads the clock, the synchroniser, the run state or `Q_INVERT`: executing one commutes with any change
of them. Only the conditional moves of `R[P]` and the mode of opcode 0x68 need a case split; every other instruction
builds its next state from the same field values on both sides. -/
theorem exec_changeUnseen (i : Instr) (s : State) (f : UnseenChange) :
    exec i (s.changeUnseen f) = mapNext (·.changeUnseen f) (exec i s) := by
  cases i
  case br | bq | bz | bdf | b1 | b2 | b3 | b4 | skp | bnq | bnz | bnf | bn1 | bn2 | bn3 | bn4 =>
    exact congrArg Host.Outcome.next (s.shortBranch_changeUnseen f _ _)
  case lbr | lbq | lbz | lbdf | lbnq | lbnz | lbnf =>
    exact congrArg Host.Outcome.next (s.longBranch_changeUnseen f _ _)
  case lsnq | lsnz | lsnf | lskp | lsie | lsq | lsz | lsdf =>
    exact congrArg Host.Outcome.next (s.longSkip_changeUnseen f _)
  case reserved68 =>
    show execReserved68 (s.changeUnseen f) = mapNext (·.changeUnseen f) (execReserved68 s)
    have hmode : (s.changeUnseen f).cfg.op68Mode = s.cfg.op68Mode := rfl
    unfold execReserved68
    rw [hmode]
    cases s.cfg.op68Mode <;> rfl
  all_goals rfl

/-! ### The cycle counter (10_state.md R33) -/

/-- Each of the three kinds of iteration charges what `nextCost` announces (60_exceptions.md R232, R235). -/
theorem step_cycles {s t : State} (h : step s = .next t) : t.cycles = s.cycles + s.nextCost := by
  obtain ⟨-, u, -, rfl, ⟨hint, rfl⟩ | ⟨hint, hidle, rfl⟩ | ⟨hint, hidle, v, hv, rfl⟩⟩ := step_cases h
  · simp [State.nextCost, hint, State.interruptAck]
  · simp [State.nextCost, hint, hidle, State.idlePass]
  · obtain ⟨-, -, -, hcycles, -, -⟩ := exec_keeps_synchroniser hv
    simp [State.nextCost, hint, hidle, hcycles, State.afterFetch]

/-- A step adds the iteration's cost to `CYCLES`, any other command of the host nothing. -/
theorem hostStep_cycles {s t : State} {c : HostCommand} (h : hostStep s c = .next t) :
    t.cycles = s.cycles + (if c = .stepOne then s.nextCost else 0) := by
  cases c with
  | stepOne => exact step_cycles h
  | poke poke =>
    obtain ⟨-, -, hcycles, -, -⟩ := hostPoke_keeps_synchroniser h
    exact hcycles
  | inject event =>
    obtain ⟨e, -, rfl⟩ := hostInject_eq_next h
    rfl
  | stop =>
    cases h
    rfl

theorem launch_cycles {lc : LaunchConfig} {s : State} (h : launch lc = .ok s) : s.cycles = 0 := by
  obtain ⟨-, _, _, _, _, _, _, _, -, -, -, -, -, -, -, rfl⟩ := launch_eq_ok h
  simp

/-- Settles O13: only the charge of an iteration changes `CYCLES`, and `CYCLES` is among what no instruction reads. -/
theorem cyclesOnlyGrowAndNoInstructionSeesThem : Obligations.CyclesOnlyGrowAndNoInstructionSeesThem := by
  unfold Obligations.CyclesOnlyGrowAndNoInstructionSeesThem
  refine ⟨fun _ _ => launch_cycles, fun s t c h => ?_, fun i s c => ?_, fun i s t h => ?_, fun s t hcfg hcycles => ?_⟩
  · exact ⟨(Nat.le_add_right _ _).trans_eq (hostStep_cycles h).symm, hostStep_cycles h⟩
  · exact exec_changeUnseen i s { cycles := fun _ => c }
  · obtain ⟨-, -, -, hkept, -, -⟩ := exec_keeps_synchroniser h
    exact hkept
  · rw [State.nowNs, State.nowNs, hcfg, hcycles]

end Sys2Proof.Machine
end

section
/-! PROOFS. Memory as data: what a write changes (20_memory.md R51), and who may write (20_memory.md R63). -/

namespace Sys2Proof.Machine

/-! ### One write (20_memory.md R51) -/

/-- A write leaves every other cell, whether or not an address selects it. -/
theorem State.read_memWrite_other (s : State) (a : Word) (v : Byte) {c : Nat} (hc : c ≠ s.cellOf a) :
    (s.memWrite a v).mem.read c = s.mem.read c :=
  (Memory.read_write (s.cellOf a) c v s.mem).trans (if_neg hc)

/-- Settles O32: memory's read-after-write law, at the cell the address selects and at the others. -/
theorem aWriteChangesExactlyOneCell : Obligations.AWriteChangesExactlyOneCell := by
  unfold Obligations.AWriteChangesExactlyOneCell
  exact fun s a b v => ⟨rfl, s.memRead_memWrite a b v, fun _ hc => s.read_memWrite_other a v hc, rfl⟩

/-! ### Instructions that store -/

/-- The instructions with a store in their rule are the only ones that can change memory. The branches and skips move
`R[P]` under a condition, and opcode 0x68 has two modes; every other instruction builds its next state with `s.mem`. -/
theorem exec_mem_ne {i : Instr} {s t : State} (h : exec i s = .next t) (hmem : t.mem ≠ s.mem) :
    (∃ n, i = .str n) ∨ i = .stxd ∨ (∃ port, i = .inp port) ∨ i = .sav ∨ i = .mark := by
  cases i
  case str n => exact .inl ⟨n, rfl⟩
  case stxd => exact .inr (.inl rfl)
  case inp port => exact .inr (.inr (.inl ⟨port, rfl⟩))
  case sav => exact .inr (.inr (.inr (.inl rfl)))
  case mark => exact .inr (.inr (.inr (.inr rfl)))
  all_goals refine absurd ?_ hmem
  case br | bq | bz | bdf | b1 | b2 | b3 | b4 | skp | bnq | bnz | bnf | bn1 | bn2 | bn3 | bn4 =>
    obtain rfl := Host.Outcome.next.inj h
    exact s.shortBranch_mem _ _
  case lbr | lbq | lbz | lbdf | lbnq | lbnz | lbnf =>
    obtain rfl := Host.Outcome.next.inj h
    exact s.longBranch_mem _ _
  case lsnq | lsnz | lsnf | lskp | lsie | lsq | lsz | lsdf =>
    obtain rfl := Host.Outcome.next.inj h
    exact s.longSkip_mem _
  case reserved68 =>
    change execReserved68 s = .next t at h
    unfold execReserved68 at h
    split at h <;> cases h <;> rfl
  all_goals
    obtain rfl := Host.Outcome.next.inj h
    rfl

/-! ### The scheduler and memory -/

namespace State

variable (s : State) (m : Memory)

theorem applyEvent_withMem (e : Event) :
    ({ s with mem := m } : State).applyEvent e = { s.applyEvent e with mem := m } := by
  unfold applyEvent
  cases e.kind <;> rfl

theorem applyDue_withMem (now : Nat) (q : List Event) :
    applyDue now q { s with mem := m } = { applyDue now q s with mem := m } := by
  induction q generalizing s with
  | nil => rfl
  | cons e q ih =>
    by_cases hdue : e.time.val ≤ now
    · simp only [applyDue, hdue, if_true, applyEvent_withMem, ih]
    · simp only [applyDue, hdue, if_false, setQueue]

/-- The scheduler neither reads nor writes memory: applying the due events commutes with any change of it. -/
theorem applyEvents_withMem :
    ({ s with mem := m } : State).applyEvents = { s.applyEvents with mem := m } :=
  s.applyDue_withMem m s.nowNs s.queue

end State

/-! ### Steps and host commands -/

/-- An acknowledgement and an idle pass keep memory, and so do the charge and the due events: a step that changes memory
ran an instruction that did. -/
theorem step_mem_ne {s t : State} (h : step s = .next t) (hmem : t.mem ≠ s.mem) :
    s.interruptTaken = false ∧ s.idle = false ∧ ∃ u, exec s.fetchInstr s.afterFetch = .next u ∧ t.mem = u.mem := by
  obtain ⟨-, u, -, rfl, ⟨-, rfl⟩ | ⟨-, -, rfl⟩ | ⟨hint, hidle, v, hv, rfl⟩⟩ := step_cases h
  · exact absurd s.interruptAck.applyEvents_mem hmem
  · exact absurd s.idlePass.applyEvents_mem hmem
  · exact ⟨hint, hidle, v, hv, State.applyEvents_mem _⟩

/-- Of the pokes, only the memory poke changes memory. -/
theorem hostPoke_mem_ne {poke : Poke} {s t : State} (h : hostPoke s poke = .next t) (hmem : t.mem ≠ s.mem) :
    ∃ a v, poke = .mem a v := by
  cases poke
  case mem a v => exact ⟨a, v, rfl⟩
  all_goals refine absurd ?_ hmem
  case d | df | p | x | t | ie | q =>
    obtain ⟨_, _, rfl⟩ := pokeWith_eq_next h
    rfl
  case r | ef =>
    obtain ⟨_, _, _, _, rfl⟩ := pokeAt_eq_next h
    rfl
  case port | outPort | inPort =>
    obtain ⟨_, _, _, _, _, rfl⟩ := pokeLatch_eq_next h
    rfl
  case clearIdle =>
    cases h
    rfl

/-- An injection changes the queue alone and the stop `RUN` alone; what is left is a step or a memory poke. -/
theorem hostStep_mem_ne {s t : State} {c : HostCommand} (h : hostStep s c = .next t) (hmem : t.mem ≠ s.mem) :
    c = .stepOne ∨ ∃ a v, c = .poke (.mem a v) := by
  cases c with
  | stepOne => exact .inl rfl
  | poke poke =>
    obtain ⟨a, v, rfl⟩ := hostPoke_mem_ne h hmem
    exact .inr ⟨a, v, rfl⟩
  | inject event =>
    obtain ⟨_, -, rfl⟩ := hostInject_eq_next h
    exact absurd rfl hmem
  | stop =>
    cases h
    exact absurd rfl hmem

/-- Settles O60: the storing instructions, the scheduler, the step and the host's commands, each by its own lemma. -/
theorem whoWritesMemory : Obligations.WhoWritesMemory := by
  unfold Obligations.WhoWritesMemory
  exact ⟨fun _ _ _ => exec_mem_ne, State.applyEvents_withMem, fun _ _ => step_mem_ne, fun _ _ _ => hostStep_mem_ne⟩

end Sys2Proof.Machine
end

section
/-! PROOFS. The opcode map is exact: an opcode byte and its operand bytes select one instruction (30_encoding.md R76,
R77), and the opcode byte alone fixes the length (R71). -/

namespace Sys2Proof

/-! ### An instruction from its bytes (30_encoding.md R76) -/

/-- The opcode map at an instruction's opcode and operand bytes (0 where it has none) is the instruction. A register
number is read back from the opcode's low nibble, a port from its opcode, and a target from its two bytes. -/
theorem decodeOp_encode {i : Instr} (hwf : i.wf = true) :
    decodeOp i.opcode (i.operandBytes.getD 0 0) (i.operandBytes.getD 1 0) = i := by
  cases i
  all_goals dsimp only [Instr.opcode, Instr.operandBytes]
  case ldn n =>
    have hn : n ≠ 0#4 := by simpa [Instr.wf] using hwf
    simp [regOpcode, decodeOp, hn]
  case lda n | str n | inc n | dec n | glo n | ghi n | plo n | phi n | sep n | sex n => simp [regOpcode, decodeOp]
  case out port | inp port => cases port <;> rfl
  case lbr a | lbq a | lbz a | lbdf a | lbnq a | lbnz a | lbnf a => exact congrArg _ (bytePair_hiByte_loByte a)
  all_goals rfl

/-- No two instructions have the same opcode and operand bytes. -/
theorem eq_of_opcode_operandBytes_eq {i j : Instr} (hi : i.wf = true) (hj : j.wf = true) (hop : i.opcode = j.opcode)
    (hbytes : i.operandBytes = j.operandBytes) : i = j :=
  calc i = decodeOp i.opcode (i.operandBytes.getD 0 0) (i.operandBytes.getD 1 0) := (decodeOp_encode hi).symm
    _ = decodeOp j.opcode (j.operandBytes.getD 0 0) (j.operandBytes.getD 1 0) := by rw [hop, hbytes]
    _ = j := decodeOp_encode hj

/-! ### Every opcode byte (30_encoding.md R77) -/

theorem opcodeCost_cases (op : Byte) : opcodeCost op = 2 ∨ opcodeCost op = 3 := by
  unfold opcodeCost
  split_ifs
  · exact .inr rfl
  · exact .inl rfl

/-- Settles O3: the instruction is the opcode map's entry, and two instructions differ in their bytes. -/
theorem everyOpcodeByteSelectsOneInstruction : Obligations.EveryOpcodeByteSelectsOneInstruction := by
  unfold Obligations.EveryOpcodeByteSelectsOneInstruction
  intro op b1 b2
  have hwf : (decodeOp op b1 b2).wf = true := decodeOp_wf op b1 b2
  have hop : (decodeOp op b1 b2).opcode = op := decodeOp_opcode op b1 b2
  exact ⟨_, _, decode_three op b1 b2 [], hwf, hop,
    fun _ hj hjop hjbytes => eq_of_opcode_operandBytes_eq hj hwf (hjop.trans hop.symm) hjbytes, opcodeCost_cases op⟩

/-! ### The length (30_encoding.md R71) -/

/-- The three-byte opcodes, as R71 lists them. -/
theorem instrLength_eq_three_iff :
    ∀ op : Byte, instrLength op = 3 ↔ op.toNat ∈ [0xC0, 0xC1, 0xC2, 0xC3, 0xC9, 0xCA, 0xCB] := by
  decide

/-- The two-byte opcodes, as R71 lists them. -/
theorem instrLength_eq_two_iff :
    ∀ op : Byte, instrLength op = 2 ↔
      op.toNat ∈ List.range' 0x30 16 ++ [0x7C, 0x7D, 0x7F] ++ List.range' 0xF8 6 ++ [0xFF] := by
  decide

/-- Settles O4: three bytes always decode, to an instruction of the length that R71's lists give. -/
theorem theOpcodeByteAloneFixesTheLength : Obligations.TheOpcodeByteAloneFixesTheLength := by
  unfold Obligations.TheOpcodeByteAloneFixesTheLength
  intro op b1 b2 rest
  refine ⟨decodeOp op b1 b2, ?_⟩
  rw [decode_three]
  simp only [← instrLength_eq_three_iff, ← instrLength_eq_two_iff]
  rcases instrLength_cases op with h | h | h
  · simp [h]
  · simp [h]
  · simp [h]

end Sys2Proof
end

section
/-! PROOFS. The fetch and the step of an instruction (30_encoding.md R80). -/

namespace Sys2Proof.Machine

namespace State

variable (s : State)

/-! ### What the fetch reads and changes -/

/-- The bytes at `R[P]` decode to the fetched instruction. -/
theorem decode_fetchBytes :
    decode s.fetchBytes =
      .ok (s.fetchInstr, [s.memRead (s.pc + 1), s.memRead (s.pc + 2)].drop (instrLength s.opcodeByte - 1)) :=
  decode_three s.opcodeByte _ _ []

theorem fetchInstr_eq_of_decode {i : Instr} {rest : List Byte} (h : decode s.fetchBytes = .ok (i, rest)) :
    s.fetchInstr = i := by
  rw [decode_fetchBytes] at h
  injection h with h
  exact congrArg Prod.fst h

theorem fetchInstr_wf : s.fetchInstr.wf = true := decodeOp_wf _ _ _

@[simp] theorem fetchInstr_opcode : s.fetchInstr.opcode = s.opcodeByte := decodeOp_opcode _ _ _

/-- An assignment to a register changes that register only. -/
theorem onlyRegs_setReg (n : Nib) (v : Word) : s.OnlyRegs (s.setReg n v) [n] :=
  ⟨rfl, fun _ hm => s.reg_setReg_other (List.ne_of_not_mem_cons hm) v, s.memRead_setReg n v⟩

end State

/-! ### The step of an instruction -/

/-- A running machine that takes no interrupt and is not idle performs the fetched instruction. -/
theorem step_eq_finishInstr {s : State} (hrun : s.run = .running) (hint : s.interruptTaken = false)
    (hidle : s.idle = false) :
    step s = finishInstr (opcodeCost s.opcodeByte) (exec s.fetchInstr s.afterFetch) := by
  simp [step, iterate, hrun, hint, hidle]

/-- Settles O6: the fetched instruction is the one the bytes at `R[P]` decode to, and the step performs it. -/
theorem stepRunsTheDecodedInstruction : Obligations.StepRunsTheDecodedInstruction := by
  unfold Obligations.StepRunsTheDecodedInstruction
  intro s i rest hrun hint hidle
  refine ⟨rfl, s.reg_incReg_same s.p, s.onlyRegs_setReg s.p _, fun hdecode => ?_⟩
  obtain rfl := s.fetchInstr_eq_of_decode hdecode
  have hstep : step s = finishInstr (opcodeCost s.fetchInstr.opcode) (exec s.fetchInstr s.afterFetch) := by
    rw [s.fetchInstr_opcode]
    exact step_eq_finishInstr hrun hint hidle
  refine ⟨s.fetchInstr_wf, hstep, fun t ht => ?_⟩
  rw [hstep, ht]
  rfl

end Sys2Proof.Machine
end

section
/-! PROOFS. Decoding an encoding gives the instruction back (30_encoding.md R76, R78). -/

namespace Sys2Proof

/-- The opcode map at the instruction's own bytes is the instruction, and the length its opcode fixes says how many of
them the encoding has. -/
theorem decode_encode_append {i : Instr} (hwf : i.wf = true) (rest : List Byte) :
    decode (encode i ++ rest) = .ok (i, rest) := by
  obtain ⟨b1, b2, hop⟩ : ∃ b1 b2, decodeOp i.opcode b1 b2 = i := ⟨_, _, decodeOp_encode hwf⟩
  have hbytes : i.operandBytes = [b1, b2].take (instrLength i.opcode - 1) :=
    (congrArg Instr.operandBytes hop).symm.trans (decodeOp_operandBytes i.opcode b1 b2)
  rcases instrLength_cases i.opcode with hlen | hlen | hlen <;> rw [encode, hbytes, hlen]
  · exact (decode_one rest hlen).trans (by rw [decodeOp_one _ 0 0 b1 b2 hlen, hop])
  · exact (decode_two b1 rest hlen).trans (by rw [decodeOp_two _ b1 0 b2 hlen, hop])
  · exact (decode_long b1 b2 rest hlen).trans (by rw [hop])

theorem decode_encode {i : Instr} (hwf : i.wf = true) : decode (encode i) = .ok (i, []) := by
  simpa using decode_encode_append hwf []

/-- The opcode byte of a register form as a number: the row of the opcode map in bits 7:4, `N` in bits 3:0. -/
theorem ofNat_row_add_eq_regOpcode (row n : Nib) : BitVec.ofNat 8 (16 * row.toNat + n.toNat) = regOpcode row n := by
  apply BitVec.eq_of_toNat_eq
  rw [BitVec.toNat_ofNat, regOpcode, nibPair_toNat]
  omega

/-- A register form decodes from its row of the opcode map and its register number. -/
theorem decode_registerForm {i : Instr} {row n : Nib} (hwf : i.wf = true) (henc : encode i = [regOpcode row n]) :
    decode [BitVec.ofNat 8 (16 * row.toNat + n.toNat)] = .ok (i, []) := by
  rw [ofNat_row_add_eq_regOpcode, ← henc]
  exact decode_encode hwf

end Sys2Proof
end

section
/-! PROOFS. Register load, store, increment and decrement (41_register_transfer.md R101 to R114). -/

namespace Sys2Proof.Machine

namespace State

variable (s : State)

/-! ### Frames -/

theorem onlyRegs_refl : s.OnlyRegs s [] := ⟨rfl, fun _ _ => rfl, fun _ => rfl⟩

variable {s} {t : State} {changed : List Nib}

theorem OnlyRegs.setD (h : s.OnlyRegs t changed) (v : Byte) : s.OnlyDAndRegs (t.setD v) changed := by
  obtain ⟨hrest, hregs, hmem⟩ := h
  exact ⟨congrArg (·.setD v) hrest, hregs, hmem⟩

theorem OnlyRegs.memWrite (h : s.OnlyRegs t changed) (a : Word) (v : Byte) :
    s.OnlyByteAndRegs (t.memWrite a v) a changed := by
  obtain ⟨hrest, hregs, hmem⟩ := h
  obtain ⟨r, rfl⟩ : ∃ r, t = { s with r := r } := ⟨_, hrest⟩
  exact ⟨rfl, hregs, fun b hb => (memRead_memWrite _ a b v).trans ((if_neg hb).trans (hmem b))⟩

/-! ### Registers as numbers -/

variable (s)

theorem toNat_reg_incReg_same (n : Nib) : ((s.incReg n).reg n).toNat = ((s.reg n).toNat + 1) % 65536 := by
  rw [reg_incReg_same, BitVec.toNat_add]
  rfl

theorem toNat_reg_decReg_same (n : Nib) : ((s.decReg n).reg n).toNat = ((s.reg n).toNat + 65535) % 65536 := by
  rw [reg_decReg_same, BitVec.toNat_sub, Nat.add_comm]
  rfl

theorem toNat_reg_setRegLo_same (n : Nib) (v : Byte) :
    ((s.setRegLo n v).reg n).toNat = (s.reg n).toNat / 256 * 256 + v.toNat := by
  simp [setRegLo]

theorem toNat_reg_setRegHi_same (n : Nib) (v : Byte) :
    ((s.setRegHi n v).reg n).toNat = v.toNat * 256 + (s.reg n).toNat % 256 := by
  simp [setRegHi]

end State

/-! ### The obligations -/

/-- Settles O39: a load changes D alone, and an advance one register alone; a pointer's advance comes after its byte is
read, and touches neither D nor memory. -/
theorem loadsGiveDTheirByte : Obligations.LoadsGiveDTheirByte := by
  unfold Obligations.LoadsGiveDTheirByte
  intro s n b
  refine ⟨fun hn => ⟨?_, ?_⟩, ⟨?_, ?_⟩, ⟨?_, ?_⟩, ⟨?_, ?_⟩, ⟨?_, ?_⟩⟩
  · have hwf : (Instr.ldn n).wf = true := by simpa [Instr.wf] using hn
    simpa using decode_registerForm (row := 0x0) hwf rfl
  · exact ⟨_, rfl, rfl, s.onlyRegs_refl.setD _⟩
  · exact decode_registerForm (row := 0x4) rfl rfl
  · exact ⟨_, rfl, rfl, s.reg_incReg_same n, (s.onlyRegs_setReg n _).setD _⟩
  · exact decode_ldx
  · exact ⟨_, rfl, rfl, s.onlyRegs_refl.setD _⟩
  · exact decode_ldxa
  · exact ⟨_, rfl, rfl, s.reg_incReg_same s.x, (s.onlyRegs_setReg s.x _).setD _⟩
  · exact decode_encode (i := .ldi b) rfl
  · exact ⟨_, rfl, rfl, s.reg_incReg_same s.p, (s.onlyRegs_setReg s.p _).setD b⟩

/-- Settles O40: a store changes memory at the cell of its address alone; STXD's step down comes after the store and
touches no memory. -/
theorem storesPutDAtTheirPointer : Obligations.StoresPutDAtTheirPointer := by
  unfold Obligations.StoresPutDAtTheirPointer
  intro s n
  refine ⟨⟨?_, ?_⟩, ⟨?_, ?_⟩⟩
  · exact decode_registerForm (row := 0x5) rfl rfl
  · exact ⟨_, rfl, s.memRead_memWrite_same _ s.d, s.onlyRegs_refl.memWrite _ s.d⟩
  · exact decode_stxd
  · exact ⟨_, rfl, s.memRead_memWrite_same _ s.d, s.reg_decReg_same s.x, (s.onlyRegs_setReg s.x _).memWrite _ s.d⟩

/-- Settles O41: each of the three assigns one register, its old value one up or one down as a 16-bit word. -/
theorem incrementsAndDecrementsWrap : Obligations.IncrementsAndDecrementsWrap := by
  unfold Obligations.IncrementsAndDecrementsWrap
  intro s n
  refine ⟨⟨?_, ?_⟩, ⟨?_, ?_⟩, ⟨?_, ?_⟩⟩
  · exact decode_irx
  · exact ⟨_, rfl, s.toNat_reg_incReg_same s.x, s.onlyRegs_setReg s.x _⟩
  · exact decode_registerForm (row := 0x1) rfl rfl
  · exact ⟨_, rfl, s.toNat_reg_incReg_same n, s.onlyRegs_setReg n _⟩
  · exact decode_registerForm (row := 0x2) rfl rfl
  · exact ⟨_, rfl, s.toNat_reg_decReg_same n, s.onlyRegs_setReg n _⟩

/-- Settles O42: GLO and GHI assign D one half of a register; PLO and PHI assign a register the pair of D and the half it
keeps. -/
theorem registerHalvesMoveThroughD : Obligations.RegisterHalvesMoveThroughD := by
  unfold Obligations.RegisterHalvesMoveThroughD
  intro s n
  refine ⟨⟨?_, ?_⟩, ⟨?_, ?_⟩, ⟨?_, ?_⟩, ⟨?_, ?_⟩⟩
  · exact decode_registerForm (row := 0x8) rfl rfl
  · exact ⟨_, rfl, loByte_toNat (s.reg n), s.onlyRegs_refl.setD _⟩
  · exact decode_registerForm (row := 0x9) rfl rfl
  · exact ⟨_, rfl, hiByte_toNat (s.reg n), s.onlyRegs_refl.setD _⟩
  · exact decode_registerForm (row := 0xA) rfl rfl
  · exact ⟨_, rfl, s.toNat_reg_setRegLo_same n s.d, s.onlyRegs_setReg n _⟩
  · exact decode_registerForm (row := 0xB) rfl rfl
  · exact ⟨_, rfl, s.toNat_reg_setRegHi_same n s.d, s.onlyRegs_setReg n _⟩

end Sys2Proof.Machine
end

section
/-! PROOFS. Short branches and the short skip (42_short_branch.md R120 to R136). -/

namespace Sys2Proof.Machine

namespace State

variable (s : State)

/-! ### The conditions on D -/

@[simp] theorem dIsZero_eq_true_iff : s.dIsZero = true ↔ s.d = 0 := beq_iff_eq

@[simp] theorem dIsZero_eq_false_iff : s.dIsZero = false ↔ s.d ≠ 0 := beq_eq_false_iff_ne

/-! ### What a short branch does -/

theorem shortBranch_taken (b : Byte) : s.shortBranch true b = s.setRegLo s.p b := rfl

theorem shortBranch_notTaken (b : Byte) : s.shortBranch false b = s.incReg s.p := rfl

theorem onlyRegs_shortBranch (cond : Bool) (b : Byte) : s.OnlyRegs (s.shortBranch cond b) [s.p] := by
  cases cond <;> exact s.onlyRegs_setReg s.p _

end State

/-- R120 for one instruction: an instruction encoded as its opcode and the branch byte, and executed as
`ShortBranch(cond)`, branches exactly when its condition holds. -/
theorem shortBranch_spec {s : State} {opcode b : Byte} {i : Instr} {cond : Bool} {holds : Prop} (hwf : i.wf = true)
    (henc : encode i = [opcode, b]) (hcost : opcodeCost opcode = 2) (hexec : exec i s = .next (s.shortBranch cond b))
    (hcond : cond = true ↔ holds) :
    decode [opcode, b] = .ok (i, []) ∧ opcodeCost opcode = 2 ∧
    ∃ t, exec i s = .next t ∧ s.OnlyRegs t [s.p] ∧
      (holds → (t.reg s.p).toNat = (s.reg s.p).toNat / 256 * 256 + b.toNat) ∧
      (¬holds → t.reg s.p = s.reg s.p + 1) := by
  refine ⟨henc ▸ decode_encode hwf, hcost, _, hexec, s.onlyRegs_shortBranch cond b, fun htaken => ?_, fun hnot => ?_⟩
  · rw [hcond.mpr htaken, s.shortBranch_taken]
    exact s.toNat_reg_setRegLo_same s.p b
  · rw [Bool.eq_false_iff.mpr (hnot ∘ hcond.mp), s.shortBranch_notTaken]
    exact s.reg_incReg_same s.p

/-! ### The obligations -/

/-- Settles O43: each of the eight is `ShortBranch` of its own condition. -/
theorem shortBranchesOnASetCondition : Obligations.ShortBranchesOnASetCondition := by
  unfold Obligations.ShortBranchesOnASetCondition
  intro s b
  simp only [List.forall_mem_cons]
  refine ⟨?br, ?bq, ?bz, ?bdf, ?b1, ?b2, ?b3, ?b4, List.forall_mem_nil _⟩
  case br => exact shortBranch_spec rfl rfl rfl rfl (iff_of_true rfl trivial)
  case bz => exact shortBranch_spec rfl rfl rfl rfl s.dIsZero_eq_true_iff
  case bq | bdf | b1 | b2 | b3 | b4 => exact shortBranch_spec rfl rfl rfl rfl Iff.rfl

/-- Settles O44: each of the eight is `ShortBranch` of the negation of the condition that the branch eight opcodes below
it has. -/
theorem shortBranchesOnAClearCondition : Obligations.ShortBranchesOnAClearCondition := by
  unfold Obligations.ShortBranchesOnAClearCondition
  intro s b
  simp only [List.forall_mem_cons]
  refine ⟨?skp, ?bnq, ?bnz, ?bnf, ?bn1, ?bn2, ?bn3, ?bn4, List.forall_mem_nil _⟩
  case skp => exact shortBranch_spec rfl rfl rfl rfl (iff_of_false Bool.false_ne_true id)
  case bnz => exact shortBranch_spec rfl rfl rfl rfl ((Bool.not_eq_true' _).to_iff.trans s.dIsZero_eq_false_iff)
  case bnq | bnf | bn1 | bn2 | bn3 | bn4 => exact shortBranch_spec rfl rfl rfl rfl (Bool.not_eq_true' _).to_iff

end Sys2Proof.Machine
end

section
/-! PROOFS. NOP and the long skips (43_long_branch.md R146 to R150 and R154 to R157). -/

namespace Sys2Proof.Machine

namespace State

variable {s t : State} {changed wider : List Nib}

/-- A frame may list registers that did not change. -/
theorem OnlyRegs.mono (h : s.OnlyRegs t changed) (hsub : changed ⊆ wider) : s.OnlyRegs t wider := by
  obtain ⟨hrest, hregs, hmem⟩ := h
  exact ⟨hrest, fun n hn => hregs n fun hin => hn (hsub hin), hmem⟩

variable (s)

/-! ### What a long skip does -/

theorem longSkip_taken : s.longSkip true = s.setPc (s.pc + 2) := rfl

theorem longSkip_notTaken : s.longSkip false = s := rfl

theorem onlyRegs_longSkip (cond : Bool) : s.OnlyRegs (s.longSkip cond) [s.p] := by
  cases cond with
  | false => exact s.onlyRegs_refl.mono (List.nil_subset _)
  | true => exact s.onlyRegs_setReg s.p _

end State

/-- R141 for one instruction: an instruction encoded as its opcode alone, and executed as `LongSkip(cond)`, skips exactly
when its condition holds. -/
theorem longSkip_spec {s : State} {opcode : Byte} {i : Instr} {cond : Bool} {holds : Prop} (hwf : i.wf = true)
    (henc : encode i = [opcode]) (hcost : opcodeCost opcode = 3) (hexec : exec i s = .next (s.longSkip cond))
    (hcond : cond = true ↔ holds) :
    decode [opcode] = .ok (i, []) ∧ opcodeCost opcode = 3 ∧
    ∃ t, exec i s = .next t ∧ s.OnlyRegs t [s.p] ∧
      (holds → t.reg s.p = s.reg s.p + 2) ∧ (¬holds → t = s) := by
  refine ⟨henc ▸ decode_encode hwf, hcost, _, hexec, s.onlyRegs_longSkip cond, fun htaken => ?_, fun hnot => ?_⟩
  · rw [hcond.mpr htaken, s.longSkip_taken]
    exact s.reg_setReg_same s.p _
  · rw [Bool.eq_false_iff.mpr (hnot ∘ hcond.mp), s.longSkip_notTaken]

/-! ### The obligation -/

/-- Settles O46: each of the eight skips is `LongSkip` of its own condition, and NOP does what a skip never taken does. -/
theorem longSkips : Obligations.LongSkips := by
  unfold Obligations.LongSkips
  intro s
  simp only [List.forall_mem_cons]
  refine ⟨?nop, ?lsnq, ?lsnz, ?lsnf, ?lskp, ?lsie, ?lsq, ?lsz, ?lsdf, List.forall_mem_nil _⟩
  case nop => exact longSkip_spec (cond := false) rfl rfl rfl rfl (iff_of_false Bool.false_ne_true id)
  case lskp => exact longSkip_spec rfl rfl rfl rfl (iff_of_true rfl trivial)
  case lsz => exact longSkip_spec rfl rfl rfl rfl s.dIsZero_eq_true_iff
  case lsnz => exact longSkip_spec rfl rfl rfl rfl ((Bool.not_eq_true' _).to_iff.trans s.dIsZero_eq_false_iff)
  case lsie | lsq | lsdf => exact longSkip_spec rfl rfl rfl rfl Iff.rfl
  case lsnq | lsnf => exact longSkip_spec rfl rfl rfl rfl (Bool.not_eq_true' _).to_iff

end Sys2Proof.Machine
end

section
/-! PROOFS. Logic, addition and shifts (44_arithmetic_logic.md R162 to R171 and R180 to R183). -/

namespace Sys2Proof.Machine

/-! ### The arithmetic as numbers -/

section

variable (a b d : Byte) (c : Bool)

@[simp] theorem add8_fst_toNat : (add8 a b c).1.toNat = (a.toNat + b.toNat + c.toNat) % 256 := by
  simp [add8]

/-- The exact sum is at most 511, so its carry out is one bit. -/
theorem add8_snd_eq_true_iff : (add8 a b c).2 = true ↔ 256 ≤ a.toNat + b.toNat + c.toNat := by
  have hc : c.toNat ≤ 1 := c.toNat_le
  rw [add8, beq_iff_eq]
  omega

@[simp] theorem shiftRight_fst_toNat : (shiftRight d c).1.toNat = d.toNat / 2 + 128 * c.toNat := by
  have hc : c.toNat ≤ 1 := c.toNat_le
  rw [shiftRight, BitVec.toNat_ofNat]
  omega

theorem shiftRight_snd_eq_true_iff : (shiftRight d c).2 = true ↔ d.toNat % 2 = 1 := by
  simp [shiftRight, BitVec.getLsbD]

@[simp] theorem shiftLeft_fst_toNat : (shiftLeft d c).1.toNat = d.toNat * 2 % 256 + c.toNat := by
  have hc : c.toNat ≤ 1 := c.toNat_le
  rw [shiftLeft, BitVec.toNat_ofNat]
  omega

theorem shiftLeft_snd_eq_true_iff : (shiftLeft d c).2 = true ↔ 128 ≤ d.toNat := by
  have hbit : (shiftLeft d c).2 = decide (128 ≤ d.toNat) := d.msb_eq_decide
  rw [hbit, decide_eq_true_iff]

end

namespace State

/-! ### Frames -/

theorem OnlyRegs.setDDf {s t : State} {changed : List Nib} (h : s.OnlyRegs t changed) (res : Byte × Bool) :
    s.OnlyDDfAndRegs (t.setDDf res) changed := by
  obtain ⟨hrest, hregs, hmem⟩ := h
  exact ⟨congrArg (·.setDDf res) hrest, hregs, hmem⟩

/-- `u` is `s` past an operand: only the registers `changed` differ, and `R[P]`, where it is one of them, is one higher. -/
def PastOperand (s u : State) (changed : List Nib) : Prop :=
  s.OnlyRegs u changed ∧ (s.p ∈ changed → u.reg s.p = s.reg s.p + 1)

variable (s : State)

/-- An operand at `R[X]` moves no register. -/
theorem pastOperand_memory : s.PastOperand s [] := ⟨s.onlyRegs_refl, fun h => absurd h List.not_mem_nil⟩

/-- An immediate operand moves `R[P]`. -/
theorem pastOperand_immediate : s.PastOperand s.afterImm [s.p] :=
  ⟨s.onlyRegs_setReg s.p _, fun _ => s.reg_incReg_same s.p⟩

end State

/-! ### One rule per shape of instruction -/

section

variable {s u : State} {bytes : List Byte} {i : Instr} {changed : List Nib}

/-- An instruction that takes its operand and assigns D. -/
theorem setD_spec {v : Byte} (hwf : i.wf = true) (henc : encode i = bytes) (hpast : s.PastOperand u changed)
    (hexec : exec i s = .next (u.setD v)) :
    decode bytes = .ok (i, []) ∧
    ∃ t, exec i s = .next t ∧ t.d = v ∧ s.OnlyDAndRegs t changed ∧ (s.p ∈ changed → t.reg s.p = s.reg s.p + 1) := by
  obtain ⟨hregs, hpc⟩ := hpast
  exact ⟨henc ▸ decode_encode hwf, _, hexec, rfl, hregs.setD v, hpc⟩

/-- An instruction that takes its operand and adds it to D, with a carry in. -/
theorem addition_spec {m : Byte} {c : Bool} {carryIn : Nat} (hwf : i.wf = true) (henc : encode i = bytes)
    (hpast : s.PastOperand u changed) (hexec : exec i s = .next (u.setDDf (add8 s.d m c))) (hcarry : c.toNat = carryIn) :
    decode bytes = .ok (i, []) ∧
    ∃ t, exec i s = .next t ∧
      t.d.toNat = (s.d.toNat + m.toNat + carryIn) % 256 ∧
      (t.df = true ↔ 256 ≤ s.d.toNat + m.toNat + carryIn) ∧
      s.OnlyDDfAndRegs t changed ∧ (s.p ∈ changed → t.reg s.p = s.reg s.p + 1) := by
  obtain ⟨hregs, hpc⟩ := hpast
  subst hcarry
  exact ⟨henc ▸ decode_encode hwf, _, hexec, add8_fst_toNat s.d m c, add8_snd_eq_true_iff s.d m c, hregs.setDDf _, hpc⟩

/-- An instruction without an operand that assigns D and DF. -/
theorem shift_spec {res : Byte × Bool} {value : Nat} {bitOut : Prop} (hwf : i.wf = true) (henc : encode i = bytes)
    (hexec : exec i s = .next (s.setDDf res)) (hvalue : res.1.toNat = value) (hout : res.2 = true ↔ bitOut) :
    decode bytes = .ok (i, []) ∧
    ∃ t, exec i s = .next t ∧ t.d.toNat = value ∧ (t.df = true ↔ bitOut) ∧ s.OnlyDDfAndRegs t [] :=
  ⟨henc ▸ decode_encode hwf, _, hexec, hvalue, hout, s.onlyRegs_refl.setDDf res⟩

end

/-! ### The obligations -/

/-- Settles O47: each of the six takes its operand and assigns D, so DF stays. -/
theorem logicActsOnDAndLeavesDF : Obligations.LogicActsOnDAndLeavesDF := by
  unfold Obligations.LogicActsOnDAndLeavesDF
  intro s b
  simp only [List.forall_mem_cons]
  refine ⟨?or, ?ori, ?and, ?ani, ?xor, ?xri, List.forall_mem_nil _⟩
  case or | and | xor => exact setD_spec rfl rfl s.pastOperand_memory rfl
  case ori | ani | xri => exact setD_spec rfl rfl s.pastOperand_immediate rfl

/-- Settles O48: each of the four is `Add8` of D, its operand and its carry in. -/
theorem additionCarriesIntoDF : Obligations.AdditionCarriesIntoDF := by
  unfold Obligations.AdditionCarriesIntoDF
  intro s b
  simp only [List.forall_mem_cons]
  refine ⟨?add, ?adi, ?adc, ?adci, List.forall_mem_nil _⟩
  case add => exact addition_spec (c := false) rfl rfl s.pastOperand_memory rfl rfl
  case adi => exact addition_spec (c := false) rfl rfl s.pastOperand_immediate rfl rfl
  case adc => exact addition_spec rfl rfl s.pastOperand_memory rfl rfl
  case adci => exact addition_spec rfl rfl s.pastOperand_immediate rfl rfl

/-- Settles O50: each of the four is a shift of D with 0 or the old DF as the bit in. -/
theorem shiftsMoveOneBitThroughDF : Obligations.ShiftsMoveOneBitThroughDF := by
  unfold Obligations.ShiftsMoveOneBitThroughDF
  intro s
  simp only [List.forall_mem_cons]
  refine ⟨?shr, ?shrc, ?shl, ?shlc, List.forall_mem_nil _⟩
  case shr => exact shift_spec rfl rfl rfl (shiftRight_fst_toNat s.d false) (shiftRight_snd_eq_true_iff s.d false)
  case shrc => exact shift_spec rfl rfl rfl (shiftRight_fst_toNat s.d s.df) (shiftRight_snd_eq_true_iff s.d s.df)
  case shl => exact shift_spec rfl rfl rfl (shiftLeft_fst_toNat s.d false) (shiftLeft_snd_eq_true_iff s.d false)
  case shlc => exact shift_spec rfl rfl rfl (shiftLeft_fst_toNat s.d s.df) (shiftLeft_snd_eq_true_iff s.d s.df)

end Sys2Proof.Machine
end

section
/-! PROOFS. SEP, SEX, SEQ and REQ (45_control.md R191 to R194). -/

namespace Sys2Proof.Machine

namespace State

variable (s : State)

/-- Changing P moves the program counter to another register, whose value it is. -/
@[simp] theorem setP_pc (n : Nib) : (s.setP n).pc = s.reg n := rfl

/-- The Q pin shows the assigned bit through the board's inverter. -/
theorem setQ_qOut (b : Bool) : (s.setQ b).qOut = (b ^^ s.cfg.qInvert) := rfl

theorem setQ_true_qOut : (s.setQ true).qOut = !s.cfg.qInvert := by rw [setQ_qOut, Bool.true_xor]

theorem setQ_false_qOut : (s.setQ false).qOut = s.cfg.qInvert := by rw [setQ_qOut, Bool.false_xor]

end State

/-! ### The obligation -/

/-- Settles O52: each of the four is one assignment, to P, X or Q; no register moves, so the old program counter keeps
its value. -/
theorem pointersAndQAreSet : Obligations.PointersAndQAreSet := by
  unfold Obligations.PointersAndQAreSet
  intro s n
  refine ⟨⟨?_, ?_⟩, ⟨?_, ?_⟩, ⟨?_, ?_⟩, ⟨?_, ?_⟩⟩
  · exact decode_registerForm (row := 0xD) rfl rfl
  · exact ⟨s.setP n, rfl, s.setP_p n, s.setP_pc n, rfl⟩
  · exact decode_registerForm (row := 0xE) rfl rfl
  · exact ⟨s.setX n, rfl, s.setX_x n, rfl⟩
  · exact decode_seq
  · exact ⟨s.setQ true, rfl, s.setQ_q true, s.setQ_true_qOut, rfl⟩
  · exact decode_req
  · exact ⟨s.setQ false, rfl, s.setQ_q false, s.setQ_false_qOut, rfl⟩

end Sys2Proof.Machine
end

section
/-! PROOFS. The interrupt event and its frame (60_exceptions.md R239), the cycle length of a launch (R234), and that no
instruction stops (R220). -/

namespace Sys2Proof.Machine

/-! ### The interrupt event (60_exceptions.md R239) -/

namespace State

variable (s : State)

/-- An interrupt event is the one assignment to the request, at whatever time it is due. -/
theorem applyEvent_interrupt (now : Fin (2 ^ 64)) :
    s.applyEvent ⟨now, .interrupt⟩ = s.setIntPending true := rfl

/-- Several due interrupt events merge into one request. -/
theorem applyEvents_intPending :
    s.applyEvents.intPending = (s.intPending || (dueAt s.nowNs s.queue).any fun e => e.kind == .interrupt) := by
  rw [applyEvents_eq]
  exact s.foldl_applyEvent_intPending _

/-- The flag lines, the latches, the request and the queue are all that ApplyEvents can change. -/
theorem applyEvents_frame :
    s.applyEvents = { s with ef := s.applyEvents.ef, latches := s.applyEvents.latches,
                             intPending := s.applyEvents.intPending, queue := s.applyEvents.queue } :=
  State.ext s.applyEvents_cfg s.applyEvents_d s.applyEvents_df s.applyEvents_r s.applyEvents_p s.applyEvents_x
    s.applyEvents_t s.applyEvents_ie s.applyEvents_q rfl rfl s.applyEvents_mem rfl s.applyEvents_idle
    s.applyEvents_cycles rfl s.applyEvents_run

end State

/-- Settles O24: the request and the frame of ApplyEvents, and the one assignment an interrupt event makes. -/
theorem interruptEventsSetOneRequest : Obligations.InterruptEventsSetOneRequest := by
  unfold Obligations.InterruptEventsSetOneRequest
  exact fun s => ⟨s.applyEvents_intPending, s.applyEvents_frame, s.applyEvent_interrupt⟩

/-! ### The cycle length of a launch (60_exceptions.md R234) -/

theorem ratioPositive_iff (c : Ratio) : ratioPositive c = true ↔ 0 < c.num ∧ 0 < c.den := by
  simp [ratioPositive]

/-- The cycle length is the given one or eight clock periods, from exactly one positive parameter. -/
theorem cycleLength_eq_ok {given clock : Option Ratio} {c : Ratio} (h : cycleLength given clock = .ok c) :
    (given = some c ∧ clock = none ∧ 0 < c.num ∧ 0 < c.den) ∨
    (given = none ∧ ∃ f, clock = some f ∧ 0 < f.num ∧ 0 < f.den ∧ c = ⟨8000000000 * f.den, f.num⟩) := by
  unfold cycleLength at h
  split at h
  case h_1 =>
    split at h
    case isTrue hpos =>
      cases h
      exact .inl ⟨rfl, rfl, (ratioPositive_iff _).mp hpos⟩
    case isFalse => cases h
  case h_2 f =>
    split at h
    case isTrue hpos =>
      cases h
      obtain ⟨hnum, hden⟩ := (ratioPositive_iff f).mp hpos
      exact .inr ⟨rfl, f, rfl, hnum, hden, rfl⟩
    case isFalse => cases h
  case h_3 => cases h

@[simp] theorem launchState_cfg_cycleNs (lc : LaunchConfig) (cycleNs : Ratio) (rp : Word) (ie q : Bool)
    (ef : Vector Bool 4) (startPc : Option Word) (log : List Event) :
    (launchState lc cycleNs rp ie q ef startPc log).cfg.cycleNs = cycleNs := by
  cases startPc <;> rfl

/-- A launch runs under the cycle length its two parameters give. -/
theorem launch_cycleLength {lc : LaunchConfig} {s : State} (h : launch lc = .ok s) :
    cycleLength lc.cycleNs lc.clockHz = .ok s.cfg.cycleNs := by
  obtain ⟨-, _, _, _, _, _, _, _, hcycle, -, -, -, -, -, -, rfl⟩ := launch_eq_ok h
  simpa using hcycle

/-- Settles O36: a launch that is not refused has exactly one of the parameters, and takes its cycle length from it. -/
theorem cycleLengthComesFromExactlyOneParameter : Obligations.CycleLengthComesFromExactlyOneParameter := by
  unfold Obligations.CycleLengthComesFromExactlyOneParameter
  refine fun lc => ⟨fun hboth => ?_, fun s c hs hgiven => ?_, fun s f hs hclock => ?_⟩
  · cases hs : launch lc with
    | bad e => exact ⟨e, rfl⟩
    | ok s =>
      obtain ⟨hgiven, hclock, -⟩ | ⟨hgiven, f, hclock, -⟩ := cycleLength_eq_ok (launch_cycleLength hs)
      · simp [hgiven, hclock] at hboth
      · simp [hgiven, hclock] at hboth
  · obtain ⟨hgiven', -⟩ | ⟨hgiven', -⟩ := cycleLength_eq_ok (launch_cycleLength hs)
    · exact Option.some.inj (hgiven'.symm.trans hgiven)
    · cases hgiven'.symm.trans hgiven
  · obtain ⟨-, hclock', -⟩ | ⟨-, f', hclock', hnum, -, hcycle⟩ := cycleLength_eq_ok (launch_cycleLength hs)
    · cases hclock'.symm.trans hclock
    · obtain rfl := Option.some.inj (hclock'.symm.trans hclock)
      rw [hcycle]
      exact ⟨rfl, hnum⟩

/-! ### No instruction stops (60_exceptions.md R220) -/

/-- Either mode of the reserved opcode has a next state. -/
theorem execReserved68_completes (s : State) : ∃ t, execReserved68 s = .next t := by
  unfold execReserved68
  split <;> exact ⟨_, rfl⟩

/-- Settles O10: every instruction's meaning is a next state outright, except that opcode 0x68 first looks at its mode. -/
theorem noInstructionStops : Obligations.NoInstructionStops := by
  unfold Obligations.NoInstructionStops
  intro i s
  cases i
  case reserved68 => exact execReserved68_completes s
  all_goals exact ⟨_, rfl⟩

end Sys2Proof.Machine
end

section
/-! PROOFS. The decoder and the encoder are inverse (30_encoding.md R71 to R77). -/

namespace Sys2Proof

/-- Settles O1: `decode_encode_append` for each well-formed instruction. -/
theorem decodeUndoesEncode : Obligations.DecodeUndoesEncode := by
  unfold Obligations.DecodeUndoesEncode
  exact fun i rest hwf => decode_encode_append hwf rest

/-- The opcode map's instruction is encoded by the opcode byte and as many bytes after it as the length says. -/
theorem encode_decodeOp (op b1 b2 : Byte) :
    encode (decodeOp op b1 b2) = op :: [b1, b2].take (instrLength op - 1) := by
  rw [encode, decodeOp_opcode, decodeOp_operandBytes]

/-- Whatever bytes decode are the bytes of an entry of the opcode map, and what is left. -/
theorem decode_eq_ok {bytes rest : List Byte} {i : Instr} (h : decode bytes = .ok (i, rest)) :
    ∃ op b1 b2, i = decodeOp op b1 b2 ∧ bytes = encode i ++ rest := by
  cases bytes with
  | nil => cases h
  | cons op bytes =>
    rcases instrLength_cases op with hlen | hlen | hlen
    · rw [decode_one bytes hlen] at h
      cases h
      exact ⟨op, 0, 0, rfl, by rw [encode_decodeOp, hlen]; rfl⟩
    · match bytes with
      | [] => simp [decode, hlen] at h
      | b1 :: bytes =>
        rw [decode_two b1 bytes hlen] at h
        cases h
        exact ⟨op, b1, 0, rfl, by rw [encode_decodeOp, hlen]; rfl⟩
    · match bytes with
      | [] => simp [decode, hlen] at h
      | [_] => simp [decode, hlen] at h
      | b1 :: b2 :: bytes =>
        rw [decode_long b1 b2 bytes hlen] at h
        cases h
        exact ⟨op, b1, b2, rfl, by rw [encode_decodeOp, hlen]; rfl⟩

/-- Settles O2: what decodes is an entry of the opcode map, so it is well-formed and its encoding is the bytes read. -/
theorem encodeUndoesDecode : Obligations.EncodeUndoesDecode := by
  unfold Obligations.EncodeUndoesDecode
  intro bytes rest i h
  obtain ⟨op, b1, b2, hi, hbytes⟩ := decode_eq_ok h
  exact ⟨hi ▸ decodeOp_wf op b1 b2, hbytes⟩

/-- Settles O5: each of the seven words is the encoding of its instruction. -/
theorem sampleWordsDecode : Obligations.SampleWordsDecode := by
  unfold Obligations.SampleWordsDecode
  exact ⟨decode_encode (i := .lda 3) rfl, decode_encode (i := .bz 0x40) rfl, decode_encode (i := .lbr 0x1234) rfl,
    decode_encode (i := .sdbi 1) rfl, decode_encode (i := .mark) rfl, decode_encode (i := .out .p4) rfl,
    decode_encode (i := .inp .p1) rfl⟩

end Sys2Proof
end

section
/-! PROOFS. The event queue: the place of an injected event, and the stable sort of a log (60_exceptions.md R236). -/

namespace Sys2Proof.Machine

/-- An event's place in an ascending queue: after every event at or before its time, before every later one. -/
theorem insertEvent_split (e : Event) {q : List Event} (hq : q.Pairwise fun a b => a.time ≤ b.time) :
    ∃ before after, q = before ++ after ∧ insertEvent e q = before ++ e :: after ∧
      (∀ f ∈ before, f.time ≤ e.time) ∧ (∀ f ∈ after, e.time < f.time) := by
  induction q with
  | nil => exact ⟨[], [], rfl, rfl, List.forall_mem_nil _, List.forall_mem_nil _⟩
  | cons f q ih =>
    obtain ⟨hf, hq⟩ := List.pairwise_cons.mp hq
    by_cases hlt : e.time < f.time
    · exact ⟨[], f :: q, rfl, if_pos hlt, List.forall_mem_nil _,
        List.forall_mem_cons.mpr ⟨hlt, fun g hg => hlt.trans_le (hf g hg)⟩⟩
    · obtain ⟨before, after, rfl, hins, hbefore, hafter⟩ := ih hq
      refine ⟨f :: before, after, rfl, ?_, List.forall_mem_cons.mpr ⟨not_lt.mp hlt, hbefore⟩, hafter⟩
      rw [insertEvent, if_neg hlt, hins, List.cons_append]

/-- Among the events of one time, an inserted one comes last. -/
theorem filter_time_insertEvent (e : Event) {q : List Event} (hq : q.Pairwise fun a b => a.time ≤ b.time)
    (time : Fin (2 ^ 64)) :
    (insertEvent e q).filter (fun f => f.time == time) = (q ++ [e]).filter (fun f => f.time == time) := by
  obtain ⟨before, after, rfl, hins, -, hafter⟩ := insertEvent_split e hq
  rw [hins]
  by_cases he : e.time = time
  · have hnone : after.filter (fun f => f.time == time) = [] :=
      List.filter_eq_nil_iff.mpr fun f hf => by simpa [← he] using (hafter f hf).ne'
    simp [he, hnone]
  · simp [he]

/-- Inserting a log's events one by one into an ascending queue keeps it ascending. -/
theorem foldl_insertEvent_ascending (log : List Event) {q : List Event} (hq : q.Pairwise fun a b => a.time ≤ b.time) :
    (log.foldl (fun q e => insertEvent e q) q).Pairwise fun a b => a.time ≤ b.time := by
  induction log generalizing q with
  | nil => exact hq
  | cons e log ih => exact ih (insertEvent_ascending e hq)

theorem foldl_insertEvent_perm (log q : List Event) : (log.foldl (fun q e => insertEvent e q) q).Perm (q ++ log) := by
  induction log generalizing q with
  | nil => rw [List.append_nil]; exact .refl _
  | cons e log ih =>
    calc (log.foldl (fun q e => insertEvent e q) (insertEvent e q)).Perm (insertEvent e q ++ log) := ih _
      _ |>.Perm (e :: q ++ log) := (insertEvent_perm e q).append_right log
      _ |>.Perm (q ++ e :: log) := List.perm_middle.symm

theorem filter_time_foldl_insertEvent (time : Fin (2 ^ 64)) (log : List Event) {q : List Event}
    (hq : q.Pairwise fun a b => a.time ≤ b.time) :
    (log.foldl (fun q e => insertEvent e q) q).filter (fun e => e.time == time) =
      (q ++ log).filter (fun e => e.time == time) := by
  induction log generalizing q with
  | nil => rw [List.append_nil]; rfl
  | cons e log ih =>
    rw [List.foldl_cons, ih (insertEvent_ascending e hq), List.filter_append, filter_time_insertEvent e hq,
      ← List.filter_append, List.append_assoc, List.singleton_append]

theorem sortEvents_ascending (log : List Event) : (sortEvents log).Pairwise fun e f => e.time ≤ f.time :=
  foldl_insertEvent_ascending log .nil

theorem sortEvents_perm (log : List Event) : (sortEvents log).Perm log := foldl_insertEvent_perm log []

/-- The sort keeps the log order among the events of one time. -/
theorem filter_time_sortEvents (log : List Event) (time : Fin (2 ^ 64)) :
    (sortEvents log).filter (fun e => e.time == time) = log.filter (fun e => e.time == time) :=
  filter_time_foldl_insertEvent time log .nil

/-! ### Which events of an ascending queue are due (60_exceptions.md R237) -/

/-- In an ascending queue the due events are those at or before the time, wherever they stand. -/
theorem dueAt_eq_filter (now : Nat) {q : List Event} (hq : q.Pairwise fun a b => a.time ≤ b.time) :
    dueAt now q = q.filter fun e => decide (e.time.val ≤ now) := by
  induction q with
  | nil => rfl
  | cons e q ih =>
    obtain ⟨he, hq⟩ := List.pairwise_cons.mp hq
    by_cases hdue : e.time.val ≤ now
    · have := ih hq
      simp only [dueAt] at this
      simp [dueAt, hdue, this]
    · have hlater : ∀ f ∈ q, ¬f.time.val ≤ now := fun f hf => by
        have : e.time.val ≤ f.time.val := he f hf
        omega
      simpa [dueAt, hdue, List.filter_eq_nil_iff] using hlater

/-- And what is left is the events after the time. -/
theorem dropWhile_due_eq_filter (now : Nat) {q : List Event} (hq : q.Pairwise fun a b => a.time ≤ b.time) :
    q.dropWhile (fun e => decide (e.time.val ≤ now)) = q.filter fun e => decide (now < e.time.val) := by
  induction q with
  | nil => rfl
  | cons e q ih =>
    obtain ⟨he, hq⟩ := List.pairwise_cons.mp hq
    by_cases hdue : e.time.val ≤ now
    · simp [hdue, ih hq]
    · have hlater : ∀ f ∈ q, now < f.time.val := fun f hf => by
        have : e.time.val ≤ f.time.val := he f hf
        omega
      have hfilter : q.filter (fun f => decide (now < f.time.val)) = q :=
        List.filter_eq_self.mpr fun f hf => by simpa using hlater f hf
      simp [hdue, hfilter, Nat.lt_of_not_le hdue]

theorem State.applyEvents_queue_eq_filter {s : State} (hq : s.queue.Pairwise fun a b => a.time ≤ b.time) :
    s.applyEvents.queue = s.queue.filter fun e => decide (s.nowNs < e.time.val) := by
  rw [State.applyEvents_queue, dropWhile_due_eq_filter _ hq]

end Sys2Proof.Machine
end

section
/-! PROOFS. What an acknowledgement changes (60_exceptions.md R224). -/

namespace Sys2Proof.Machine.State

/-- The acknowledgement as one change of the state: what it does not name is as before. -/
theorem interruptAck_eq (s : State) :
    s.interruptAck =
      { s with t := s.savedXP, x := 2, p := 1, ie := false, intPending := false, idle := false,
               cycles := s.cycles + s.cfg.intAckCycles } := by
  simp only [interruptAck, setT, setX, setP, setIe, setIntPending, setIdle, charge]

end Sys2Proof.Machine.State
end

section
/-! PROOFS. The invariant: ApplyEvents, one store and every iteration keep it, and so do the host's commands
(60_exceptions.md R245). -/

namespace Sys2Proof.Machine

theorem configValid_iff (c : Config) :
    configValid c = true ↔ 1 ≤ c.memSize ∧ c.memSize ≤ 65536 ∧ ratioPositive c.cycleNs = true ∧ 1 ≤ c.intAckCycles ∧
      1 ≤ c.idlePassCycles := by
  simp [configValid, and_assoc]

namespace State

variable {s t : State}

/-- Under valid parameters every address selects a cell that exists. -/
theorem cellOf_lt (hcfg : configValid s.cfg = true) (a : Word) : s.cellOf a < s.cfg.memSize := by
  obtain ⟨hpos, -⟩ := (configValid_iff s.cfg).mp hcfg
  exact Nat.mod_lt _ hpos

/-- The parts of the state the invariant speaks of: a state with the same ones, but for one byte stored, meets it. -/
theorem Inv.of_store (hs : s.Inv) (hcfg : t.cfg = s.cfg)
    (hmem : t.mem = s.mem ∨ ∃ a v, t.mem = s.mem.write (s.cellOf a) v)
    (hqueue : t.queue.Pairwise fun e f => e.time ≤ f.time) (htime : t.nowNs < 2 ^ 64) : t.Inv := by
  rcases hmem with hmem | ⟨a, v, hmem⟩
  · exact ⟨hcfg ▸ hs.cfgValid, hmem ▸ hs.memWf, hcfg ▸ hmem ▸ hs.memWithin, hqueue, htime⟩
  · exact ⟨hcfg ▸ hs.cfgValid, hmem ▸ Memory.wf_write _ v hs.memWf,
      hcfg ▸ hmem ▸ Memory.within_write (cellOf_lt hs.cfgValid a) v hs.memWithin, hqueue, htime⟩

/-- ApplyEvents takes events off the head of the queue. -/
theorem Inv.applyEvents (hs : s.Inv) : s.applyEvents.Inv := by
  refine hs.of_store s.applyEvents_cfg (.inl s.applyEvents_mem) ?_ (s.applyEvents_nowNs ▸ hs.timeFits)
  rw [applyEvents_queue]
  exact hs.queueAscending.sublist (List.dropWhile_sublist _)

end State

/-- An iteration keeps the parameters and the queue, stores at most one byte and ends before 2^64 ns; then the due events
are applied. -/
theorem step_keeps_inv {s t : State} (hs : s.Inv) (h : step s = .next t) : t.Inv := by
  obtain ⟨-, u, htime, rfl, hu⟩ := step_cases h
  refine State.Inv.applyEvents ?_
  obtain ⟨-, rfl⟩ | ⟨-, -, rfl⟩ | ⟨-, -, v, hv, rfl⟩ := hu
  · rw [State.interruptAck_eq] at htime ⊢
    exact hs.of_store rfl (.inl rfl) hs.queueAscending htime
  · exact hs.of_store rfl (.inl rfl) hs.queueAscending htime
  · have hfetch : s.afterFetch.Inv := hs.of_store rfl (.inl rfl) hs.queueAscending hs.timeFits
    obtain ⟨hcfg, -, -, -, hqueue, -⟩ := exec_keeps_synchroniser hv
    have hmem := exec_mem_cases hv
    exact hfetch.of_store hcfg hmem (hqueue ▸ hs.queueAscending) htime

/-- Settles O29: `step_keeps_inv`. -/
theorem everyStepKeepsTheInvariant : Obligations.EveryStepKeepsTheInvariant := by
  unfold Obligations.EveryStepKeepsTheInvariant
  exact fun s t => step_keeps_inv

/-- Settles O28: the reset state has the default parameters, no memory cell listed, an empty queue and time 0. -/
theorem resetMeetsTheInvariant : Obligations.ResetMeetsTheInvariant := by
  unfold Obligations.ResetMeetsTheInvariant
  exact ⟨by decide, rfl, rfl, .nil, by decide⟩

/-! ### The host's commands -/

/-- A poke stores at most one byte, and touches no other part the invariant speaks of. -/
theorem hostPoke_keeps_inv {poke : Poke} {s t : State} (hs : s.Inv) (h : hostPoke s poke = .next t) : t.Inv := by
  obtain ⟨hcfg, -, hcycles, hqueue, -⟩ := hostPoke_keeps_synchroniser h
  have htime : t.nowNs < 2 ^ 64 := by
    rw [State.nowNs, hcfg, hcycles]
    exact hs.timeFits
  refine hs.of_store hcfg ?_ (hqueue ▸ hs.queueAscending) htime
  by_cases hmem : t.mem = s.mem
  · exact .inl hmem
  · obtain ⟨a, v, rfl⟩ := hostPoke_mem_ne h hmem
    obtain ⟨addr, b, -, -, rfl⟩ := pokeAt_eq_next h
    exact .inr ⟨addr, b, rfl⟩

theorem hostStep_keeps_inv {s t : State} {c : HostCommand} (hs : s.Inv) (h : hostStep s c = .next t) : t.Inv := by
  cases c with
  | stepOne => exact step_keeps_inv hs h
  | poke poke => exact hostPoke_keeps_inv hs h
  | inject event =>
    obtain ⟨e, -, rfl⟩ := hostInject_eq_next h
    exact hs.of_store rfl (.inl rfl) (insertEvent_ascending e hs.queueAscending) hs.timeFits
  | stop =>
    cases h
    exact hs.of_store rfl (.inl rfl) hs.queueAscending hs.timeFits

end Sys2Proof.Machine
end

section
/-! PROOFS. The launch state, field by field (70_reset_and_hazards.md R270, R271), and that it meets the invariant. -/

namespace Sys2Proof.Machine

/-! ### The fields of the launch state -/

section

variable (lc : LaunchConfig) (cycleNs : Ratio) (rp : Word) (ie q : Bool) (ef : Vector Bool 4) (startPc : Option Word)
  (log : List Event)

@[simp] theorem launchState_cfg : (launchState lc cycleNs rp ie q ef startPc log).cfg =
    ⟨lc.memSize, cycleNs, lc.qInvert, lc.intAckCycles, lc.idlePassCycles, lc.op68Mode⟩ := by cases startPc <;> rfl
@[simp] theorem launchState_d : (launchState lc cycleNs rp ie q ef startPc log).d = lc.free.d := by
  cases startPc <;> rfl
@[simp] theorem launchState_df : (launchState lc cycleNs rp ie q ef startPc log).df = lc.free.df := by
  cases startPc <;> rfl
@[simp] theorem launchState_p : (launchState lc cycleNs rp ie q ef startPc log).p = 0 := by cases startPc <;> rfl
@[simp] theorem launchState_x : (launchState lc cycleNs rp ie q ef startPc log).x = 0 := by cases startPc <;> rfl
@[simp] theorem launchState_t : (launchState lc cycleNs rp ie q ef startPc log).t = lc.free.t := by
  cases startPc <;> rfl
@[simp] theorem launchState_ie : (launchState lc cycleNs rp ie q ef startPc log).ie = ie := by cases startPc <;> rfl
@[simp] theorem launchState_q : (launchState lc cycleNs rp ie q ef startPc log).q = q := by cases startPc <;> rfl
@[simp] theorem launchState_ef : (launchState lc cycleNs rp ie q ef startPc log).ef = ef := by cases startPc <;> rfl
@[simp] theorem launchState_latches : (launchState lc cycleNs rp ie q ef startPc log).latches =
    initialLatches lc.ioLatchModel lc.free := by cases startPc <;> rfl
@[simp] theorem launchState_mem : (launchState lc cycleNs rp ie q ef startPc log).mem =
    Memory.load lc.loadOffset lc.image [] := by cases startPc <;> rfl
@[simp] theorem launchState_intPending : (launchState lc cycleNs rp ie q ef startPc log).intPending = false := by
  cases startPc <;> rfl
@[simp] theorem launchState_idle : (launchState lc cycleNs rp ie q ef startPc log).idle = false := by
  cases startPc <;> rfl
@[simp] theorem launchState_queue : (launchState lc cycleNs rp ie q ef startPc log).queue = sortEvents log := by
  cases startPc <;> rfl
@[simp] theorem launchState_run : (launchState lc cycleNs rp ie q ef startPc log).run = .running := by
  cases startPc <;> rfl

@[simp] theorem launchState_nowNs : (launchState lc cycleNs rp ie q ef startPc log).nowNs = 0 := by
  simp [State.nowNs, timeAt]

end

/-! ### The invariant of a launch -/

theorem checkSizes_eq_none_iff (lc : LaunchConfig) :
    checkSizes lc = none ↔ (1 ≤ lc.memSize ∧ lc.memSize ≤ 65536) ∧ lc.loadOffset + lc.image.length ≤ lc.memSize ∧
      1 ≤ lc.intAckCycles ∧ 1 ≤ lc.idlePassCycles := by
  simp only [checkSizes]
  split_ifs <;> simp <;> omega

theorem cycleLength_positive {given clock : Option Ratio} {c : Ratio} (h : cycleLength given clock = .ok c) :
    ratioPositive c = true := by
  rw [ratioPositive_iff]
  obtain ⟨-, -, hc⟩ | ⟨-, f, -, hnum, hden, rfl⟩ := cycleLength_eq_ok h
  · exact hc
  · exact ⟨Nat.mul_pos (by decide) hden, hnum⟩

/-- The checks of R274 are what the invariant asks of the parameters; the image is loaded into canonical memory, and the
queue is sorted. -/
theorem launch_inv {lc : LaunchConfig} {s : State} (h : launch lc = .ok s) : s.Inv := by
  obtain ⟨hsizes, cycleNs, rp, ie, q, ef, startPc, log, hcycle, -, -, -, -, -, -, rfl⟩ := launch_eq_ok h
  obtain ⟨⟨hmin, hmax⟩, himage, hack, hidle⟩ := (checkSizes_eq_none_iff lc).mp hsizes
  refine State.Inv.applyEvents ⟨?_, ?_, ?_, ?_, ?_⟩
  · rw [launchState_cfg, configValid_iff]
    exact ⟨hmin, hmax, cycleLength_positive hcycle, hack, hidle⟩
  · rw [launchState_mem]
    exact Memory.wf_load lc.image lc.loadOffset rfl
  · rw [launchState_mem, launchState_cfg]
    exact Memory.within_load lc.image lc.loadOffset himage rfl
  · rw [launchState_queue]
    exact sortEvents_ascending log
  · rw [launchState_nowNs]
    decide

theorem reachable_inv {s : State} (h : Reachable s) : s.Inv := by
  induction h with
  | launched lc s hs => exact launch_inv hs
  | commanded s t c _ hc ih => exact hostStep_keeps_inv ih hc

/-- Settles O30: the launch, one host command, and the induction over both. -/
theorem everyReachableStateMeetsTheInvariant : Obligations.EveryReachableStateMeetsTheInvariant := by
  unfold Obligations.EveryReachableStateMeetsTheInvariant
  exact ⟨fun _ _ => launch_inv, fun _ _ _ => hostStep_keeps_inv, fun _ => reachable_inv⟩

end Sys2Proof.Machine
end

section
/-! PROOFS. The three kinds of iteration, their cost and their time (60_exceptions.md R229 to R235). -/

namespace Sys2Proof.Machine

namespace State

variable (s : State)

@[simp] theorem interruptTaken_eq_true_iff : s.interruptTaken = true ↔ s.intPending = true ∧ s.ie = true :=
  Bool.and_eq_true_iff

theorem interruptTaken_eq_false_iff : s.interruptTaken = false ↔ s.intPending = false ∨ s.ie = false :=
  Bool.and_eq_false_iff

/-! ### The end of an iteration -/

theorem endIteration_eq_applyEvents (h : s.nowNs < 2 ^ 64) : s.endIteration = .next s.applyEvents := if_pos h

theorem endIteration_eq_refused (h : 2 ^ 64 ≤ s.nowNs) : s.endIteration = .refused .timeBeyond64Bits :=
  if_neg (Nat.not_lt.mpr h)

theorem endIteration_ne_fault (f : Fault) : s.endIteration ≠ .fault f := by
  unfold endIteration
  split <;> exact nofun

end State

/-- Settles O7: the two arms of the end of an iteration. -/
theorem anIterationEndsWithTheDueEvents : Obligations.AnIterationEndsWithTheDueEvents := by
  unfold Obligations.AnIterationEndsWithTheDueEvents
  exact fun s => ⟨s.endIteration_eq_applyEvents, s.endIteration_eq_refused⟩

/-! ### The step of each kind -/

variable {s t : State}

theorem step_of_halted (hrun : s.run = .halted) : step s = .fault .halted := by
  simp [step, iterate, hrun]

theorem step_of_interruptTaken (hrun : s.run = .running) (hint : s.interruptTaken = true) :
    step s = s.interruptAck.endIteration := by
  simp only [step, iterate, hrun, hint, if_true]

theorem step_of_idle (hrun : s.run = .running) (hint : s.interruptTaken = false) (hidle : s.idle = true) :
    step s = s.idlePass.endIteration := by
  simp [step, iterate, hrun, hint, hidle]

/-- Settles O17: the loop's three arms, under the conditions that select them. -/
theorem anInterruptIsTakenExactlyWhenPendingAndEnabled : Obligations.AnInterruptIsTakenExactlyWhenPendingAndEnabled := by
  unfold Obligations.AnInterruptIsTakenExactlyWhenPendingAndEnabled
  intro s hrun
  refine ⟨fun hint => ?ack, fun hint hidle => ?idlePass, fun hint hidle => ?instruction⟩
  case ack => exact step_of_interruptTaken hrun (s.interruptTaken_eq_true_iff.mpr hint)
  case idlePass => exact step_of_idle hrun (s.interruptTaken_eq_false_iff.mpr hint) hidle
  case instruction => exact step_eq_finishInstr hrun (s.interruptTaken_eq_false_iff.mpr hint) hidle

/-- Every iteration of a running machine comes to an end: it charges the announced cost and leaves the parameters, the
queue and the run state to the end of the iteration. -/
theorem step_eq_endIteration (hrun : s.run = .running) :
    ∃ u : State, step s = u.endIteration ∧ u.cycles = s.cycles + s.nextCost ∧ u.cfg = s.cfg ∧ u.queue = s.queue ∧
      u.run = .running := by
  cases hint : s.interruptTaken with
  | true =>
    refine ⟨_, step_of_interruptTaken hrun hint, ?_⟩
    simp [State.interruptAck, State.nextCost, hint, hrun]
  | false =>
    cases hidle : s.idle with
    | true =>
      refine ⟨_, step_of_idle hrun hint hidle, ?_⟩
      simp [State.idlePass, State.nextCost, hint, hidle, hrun]
    | false =>
      obtain ⟨v, hv⟩ := noInstructionStops s.fetchInstr s.afterFetch
      obtain ⟨hcfg, -, -, hcycles, hqueue, hvrun⟩ := exec_keeps_synchroniser hv
      refine ⟨v.charge (opcodeCost s.opcodeByte), ?_, ?_, hcfg, hqueue, hvrun.trans hrun⟩
      · rw [step_eq_finishInstr hrun hint hidle, hv]
        rfl
      · simp [State.nextCost, hint, hidle, hcycles, State.afterFetch]

/-- Settles O8: only the halted machine's arm answers a fault; an iteration of a running one has an end. -/
theorem onlyAHaltedMachineDoesNotIterate : Obligations.OnlyAHaltedMachineDoesNotIterate := by
  unfold Obligations.OnlyAHaltedMachineDoesNotIterate
  refine fun s => ⟨rfl, fun ⟨f, hf⟩ => ?_, fun hrun => ⟨_, step_of_halted hrun⟩⟩
  cases hrun : s.run with
  | halted => rfl
  | running =>
    obtain ⟨u, hstep, -⟩ := step_eq_endIteration hrun
    exact absurd (hstep.symm.trans hf) (u.endIteration_ne_fault f)

/-- Settles O9: the iteration ends at the announced time, which fits. -/
theorem everyRunningMachineSteps : Obligations.EveryRunningMachineSteps := by
  unfold Obligations.EveryRunningMachineSteps
  intro s hrun htime
  obtain ⟨u, hstep, hcycles, hcfg, -, hurun⟩ := step_eq_endIteration hrun
  have hfits : u.nowNs < 2 ^ 64 := by
    rw [State.nowNs, hcfg, hcycles]
    exact htime
  rw [hstep, u.endIteration_eq_applyEvents hfits]
  exact ⟨_, rfl, u.applyEvents_cycles.trans hcycles, u.applyEvents_run.trans hurun, u.applyEvents_cfg.trans hcfg⟩

/-! ### Cost and time -/

/-- The opcodes 0xC0 to 0xCF are those with 0xC in bits 7:4. -/
theorem opcodeCost_eq (op : Byte) : opcodeCost op = if op.toNat / 16 = 0xC then 3 else 2 := by
  have : (0xC0 ≤ op.toNat ∧ op.toNat ≤ 0xCF) ↔ op.toNat / 16 = 0xC := by omega
  simp only [opcodeCost, this]

/-- Settles O11: the step charges the opcode's cost. -/
theorem anInstructionCostsTwoOrThreeCyclesByItsOpcode : Obligations.AnInstructionCostsTwoOrThreeCyclesByItsOpcode := by
  unfold Obligations.AnInstructionCostsTwoOrThreeCyclesByItsOpcode
  intro s t _ hint hidle h
  have hcost : s.nextCost = opcodeCost s.opcodeByte := by simp [State.nextCost, hint, hidle]
  rw [step_cycles h, hcost, opcodeCost_eq]
  rfl

theorem step_cfg (h : step s = .next t) : t.cfg = s.cfg := by
  obtain ⟨hrun, -⟩ := step_cases h
  obtain ⟨u, hstep, -, hcfg, -⟩ := step_eq_endIteration hrun
  obtain ⟨-, rfl⟩ := endIteration_eq_next (hstep.symm.trans h)
  exact u.applyEvents_cfg.trans hcfg

theorem timeAt_mono (cfg : Config) {c c' : Nat} (h : c ≤ c') : timeAt cfg c ≤ timeAt cfg c' :=
  Nat.div_le_div_right (Nat.mul_le_mul_right _ h)

theorem step_nowNs (h : step s = .next t) : t.nowNs = timeAt s.cfg (s.cycles + s.nextCost) := by
  rw [State.nowNs, step_cfg h, step_cycles h]

/-- Settles O12: the announced time is a difference of two times, the later one after the step's own charge. -/
theorem timeToBoundaryIsWhatTheNextStepTakes : Obligations.TimeToBoundaryIsWhatTheNextStepTakes := by
  unfold Obligations.TimeToBoundaryIsWhatTheNextStepTakes
  intro s t h
  have hlater : s.nowNs ≤ timeAt s.cfg (s.cycles + s.nextCost) := timeAt_mono s.cfg (Nat.le_add_right _ _)
  rw [step_nowNs h, State.timeToBoundary, Nat.add_sub_cancel' hlater]

/-- Settles O22: what ApplyEvents removes and applies from the queue as it was, at the new time. -/
theorem aStepConsumesExactlyTheDueEvents : Obligations.AStepConsumesExactlyTheDueEvents := by
  unfold Obligations.AStepConsumesExactlyTheDueEvents
  intro s t hs h
  obtain ⟨hrun, -⟩ := step_cases h
  obtain ⟨u, hstep, -, -, hqueue, -⟩ := step_eq_endIteration hrun
  obtain ⟨-, rfl⟩ := endIteration_eq_next (hstep.symm.trans h)
  refine ⟨?_, dueAt_eq_filter _ hs.queueAscending⟩
  rw [State.applyEvents_queue_eq_filter (hqueue ▸ hs.queueAscending), hqueue, State.applyEvents_nowNs]

end Sys2Proof.Machine
end

section
/-! PROOFS. What the loop and the instructions do not see: the synchroniser (10_state.md R31, R34, R35) and `Q_INVERT`
(10_state.md R28). -/

namespace Sys2Proof.Machine

/-- Settles O14: the request, the queue and the run state are among what no instruction reads or writes. -/
theorem noInstructionSeesTheSynchroniser : Obligations.NoInstructionSeesTheSynchroniser := by
  unfold Obligations.NoInstructionSeesTheSynchroniser
  exact fun i s b l ru => exec_changeUnseen i s { intPending := fun _ => b, queue := fun _ => l, run := fun _ => ru }

namespace State

/-- The state under another setting of the board's inverter. -/
def withQInvert (s : State) (b : Bool) : State := { s with cfg := { s.cfg with qInvert := b } }

variable (s : State) (b : Bool)

theorem applyEvent_withQInvert (e : Event) : (s.withQInvert b).applyEvent e = (s.applyEvent e).withQInvert b := by
  unfold applyEvent
  cases e.kind <;> rfl

theorem applyDue_withQInvert (now : Nat) (q : List Event) :
    applyDue now q (s.withQInvert b) = (applyDue now q s).withQInvert b := by
  induction q generalizing s with
  | nil => rfl
  | cons e q ih =>
    by_cases hdue : e.time.val ≤ now
    · simp only [applyDue, hdue, if_true, applyEvent_withQInvert, ih]
    · simp only [applyDue, hdue, if_false]
      rfl

theorem endIteration_withQInvert :
    (s.withQInvert b).endIteration = mapNext (·.withQInvert b) s.endIteration := by
  have htime : (s.withQInvert b).nowNs = s.nowNs := rfl
  have hevents : (s.withQInvert b).applyEvents = s.applyEvents.withQInvert b := s.applyDue_withQInvert b s.nowNs s.queue
  unfold endIteration
  rw [htime, hevents]
  split <;> rfl

end State

theorem exec_withQInvert (i : Instr) (s : State) (b : Bool) :
    exec i (s.withQInvert b) = mapNext (·.withQInvert b) (exec i s) :=
  exec_changeUnseen i s { qInvert := fun _ => b }

theorem finishInstr_withQInvert (cost : Nat) (o : Result) (b : Bool) :
    finishInstr cost (mapNext (·.withQInvert b) o) = mapNext (·.withQInvert b) (finishInstr cost o) := by
  cases o with
  | next u => exact (u.charge cost).endIteration_withQInvert b
  | fault _ => rfl
  | refused _ => rfl

/-- The three kinds of iteration each commute with the inverter's setting, and so does their end. -/
theorem step_withQInvert (s : State) (b : Bool) : step (s.withQInvert b) = mapNext (·.withQInvert b) (step s) := by
  cases hrun : s.run with
  | halted =>
    rw [step_of_halted hrun, step_of_halted (s := s.withQInvert b) hrun]
    rfl
  | running =>
    cases hint : s.interruptTaken with
    | true =>
      rw [step_of_interruptTaken hrun hint, step_of_interruptTaken (s := s.withQInvert b) hrun hint]
      exact s.interruptAck.endIteration_withQInvert b
    | false =>
      cases hidle : s.idle with
      | true =>
        rw [step_of_idle hrun hint hidle, step_of_idle (s := s.withQInvert b) hrun hint hidle]
        exact s.idlePass.endIteration_withQInvert b
      | false =>
        rw [step_eq_finishInstr hrun hint hidle, step_eq_finishInstr (s := s.withQInvert b) hrun hint hidle,
          ← finishInstr_withQInvert, ← exec_withQInvert]
        rfl

/-- Settles O15: a step commutes with the inverter's setting, and Q_OUT is the XOR by definition. -/
theorem qInvertReachesOnlyTheOutput : Obligations.QInvertReachesOnlyTheOutput := by
  unfold Obligations.QInvertReachesOnlyTheOutput
  exact fun s b => ⟨step_withQInvert s b, rfl⟩

end Sys2Proof.Machine
end

section
/-! PROOFS. The acknowledgement, the idle pass, what withdraws a request or ends the idle state, and the return
(60_exceptions.md R222 to R229). -/

namespace Sys2Proof.Machine

namespace State

variable (s : State)

theorem savedXP_toNat : s.savedXP.toNat = 16 * s.x.toNat + s.p.toNat := by
  rw [savedXP, nibPair_toNat, Nat.mul_comm]

theorem applyEvents_memKept : s.MemKept s.applyEvents := s.applyEvents_memRead

end State

/-! ### The acknowledgement (60_exceptions.md R224) -/

/-- Settles O16: the acknowledgement's one change of the state, and then ApplyEvents within its frame. -/
theorem anEnabledRequestIsAcknowledged : Obligations.AnEnabledRequestIsAcknowledged := by
  unfold Obligations.AnEnabledRequestIsAcknowledged
  intro s hrun hpending hie htime
  have hstep := step_of_interruptTaken hrun (s.interruptTaken_eq_true_iff.mpr ⟨hpending, hie⟩)
  rw [s.interruptAck_eq] at hstep
  generalize hu : ({ s with t := s.savedXP, x := 2, p := 1, ie := false, intPending := false, idle := false,
                            cycles := s.cycles + s.cfg.intAckCycles } : State) = u at hstep
  have hfits : u.nowNs < 2 ^ 64 := by subst hu; exact htime
  refine ⟨u.applyEvents, hstep.trans (u.endIteration_eq_applyEvents hfits), ?_⟩
  simp only [State.pc, State.applyEvents_reg, State.applyEvents_t, State.applyEvents_x, State.applyEvents_p,
    State.applyEvents_ie, State.applyEvents_idle, State.applyEvents_cycles, State.applyEvents_nowNs]
  have hframe := u.applyEvents_frame
  have hpend := u.applyEvents_intPending
  have hmem := u.applyEvents_memKept
  subst hu
  exact ⟨s.savedXP_toNat, rfl, rfl, rfl, rfl, rfl, rfl, hpend, hframe, hmem⟩

/-! ### The idle pass (60_exceptions.md R229) -/

/-- Settles O19: the charge, and then ApplyEvents within its frame. -/
theorem anIdlePassOnlyChargesAndAppliesEvents : Obligations.AnIdlePassOnlyChargesAndAppliesEvents := by
  unfold Obligations.AnIdlePassOnlyChargesAndAppliesEvents
  intro s hrun hint hidle htime
  refine ⟨s.idlePass.applyEvents, ?_, s.idlePass.applyEvents_cycles, ?_, s.idlePass.applyEvents_memKept⟩
  · rw [step_of_idle hrun hint hidle, s.idlePass.endIteration_eq_applyEvents htime]
  · rw [State.applyEvents_cycles]
    exact s.idlePass.applyEvents_frame

/-! ### What withdraws a request (60_exceptions.md R222) -/

/-- An idle pass and an instruction keep the request and events only make one, so the step that withdraws it is the
acknowledgement. -/
theorem step_withdraws_request {s t : State} (h : step s = .next t) (hs : s.intPending = true)
    (ht : t.intPending = false) : s.ie = true ∧ t.ie = false ∧ t.x = 2 ∧ t.p = 1 := by
  obtain ⟨-, u, -, rfl, hu⟩ := step_cases h
  rw [State.applyEvents_intPending, Bool.or_eq_false_iff] at ht
  obtain ⟨hrequest, -⟩ := ht
  obtain ⟨hint, rfl⟩ | ⟨-, -, rfl⟩ | ⟨-, -, v, hv, rfl⟩ := hu
  · obtain ⟨-, hie⟩ := s.interruptTaken_eq_true_iff.mp hint
    simp [hie, State.interruptAck]
  · exact absurd (hs.symm.trans hrequest) Bool.noConfusion
  · obtain ⟨-, -, hkept, -⟩ := exec_keeps_synchroniser hv
    exact absurd (hs.symm.trans (hkept.symm.trans hrequest)) Bool.noConfusion

/-- Settles O18: no command but a step changes the request. -/
theorem aRequestStaysUntilAcknowledged : Obligations.ARequestStaysUntilAcknowledged := by
  unfold Obligations.ARequestStaysUntilAcknowledged
  intro s t c h hs ht
  have hchanged : t.intPending ≠ s.intPending := by simp [hs, ht]
  cases c with
  | stepOne => exact ⟨rfl, step_withdraws_request h hs ht⟩
  | poke poke =>
    obtain ⟨-, hkept, -⟩ := hostPoke_keeps_synchroniser h
    exact absurd hkept hchanged
  | inject event =>
    obtain ⟨_, -, rfl⟩ := hostInject_eq_next h
    exact absurd rfl hchanged
  | stop =>
    cases h
    exact absurd rfl hchanged

/-! ### What ends the idle state (10_state.md R32) -/

/-- An idle machine's step is an acknowledgement or an idle pass, which stays idle. -/
theorem step_ends_idle {s t : State} (h : step s = .next t) (hs : s.idle = true) (ht : t.idle = false) :
    s.intPending = true ∧ s.ie = true := by
  obtain ⟨-, u, -, rfl, ⟨hint, -⟩ | ⟨-, -, rfl⟩ | ⟨-, hidle, -⟩⟩ := step_cases h
  · exact s.interruptTaken_eq_true_iff.mp hint
  · exact absurd (hs.symm.trans (s.idlePass.applyEvents_idle.symm.trans ht)) Bool.noConfusion
  · exact absurd (hs.symm.trans hidle) Bool.noConfusion

/-- Of the pokes, only the clearing of IDLE changes IDLE. -/
theorem hostPoke_idle_ne {poke : Poke} {s t : State} (h : hostPoke s poke = .next t) (hidle : t.idle ≠ s.idle) :
    poke = .clearIdle := by
  cases poke
  case clearIdle => rfl
  all_goals refine absurd ?_ hidle
  case d | df | p | x | t | ie | q =>
    obtain ⟨_, _, rfl⟩ := pokeWith_eq_next h
    rfl
  case r | ef | mem =>
    obtain ⟨_, _, _, _, rfl⟩ := pokeAt_eq_next h
    rfl
  case port | outPort | inPort =>
    obtain ⟨_, _, _, _, _, rfl⟩ := pokeLatch_eq_next h
    rfl

/-- Settles O20: an injection and the stop keep IDLE; what is left is the clearing poke or a step that acknowledges. -/
theorem idleEndsOnlyByAcknowledgementOrHost : Obligations.IdleEndsOnlyByAcknowledgementOrHost := by
  unfold Obligations.IdleEndsOnlyByAcknowledgementOrHost
  intro s t c h hs ht
  have hchanged : t.idle ≠ s.idle := by simp [hs, ht]
  cases c with
  | stepOne => exact .inr ⟨rfl, step_ends_idle h hs ht⟩
  | poke poke => exact .inl (congrArg _ (hostPoke_idle_ne h hchanged))
  | inject event =>
    obtain ⟨_, -, rfl⟩ := hostInject_eq_next h
    exact absurd rfl hchanged
  | stop =>
    cases h
    exact absurd rfl hchanged

/-! ### The return (60_exceptions.md R226) -/

namespace State

variable (s : State) (ie : Bool)

/-- The return as one change of the state: what it does not name is as before. -/
theorem returnFromInterrupt_eq :
    s.returnFromInterrupt ie =
      { s with r := (s.incReg s.x).r, x := hiNib (s.memRead (s.reg s.x)), p := loNib (s.memRead (s.reg s.x)),
               ie := ie } := by
  simp only [returnFromInterrupt, incReg, setReg, setX, setP, setIe]

@[simp] theorem returnFromInterrupt_x : (s.returnFromInterrupt ie).x = hiNib (s.memRead (s.reg s.x)) := rfl
@[simp] theorem returnFromInterrupt_p : (s.returnFromInterrupt ie).p = loNib (s.memRead (s.reg s.x)) := rfl

@[simp] theorem returnFromInterrupt_reg (n : Nib) : (s.returnFromInterrupt ie).reg n = (s.incReg s.x).reg n := rfl

@[simp] theorem returnFromInterrupt_memRead (a : Word) : (s.returnFromInterrupt ie).memRead a = s.memRead a := rfl

/-! #### The handler convention (90_conflicts.md C4) -/

/-- What the return sees in a handler that begins with DEC 2 and SAV: the acknowledged machine after both, and after the
fetch of each of the three. -/
def atHandlerReturn : State :=
  let entered := s.afterFetch.decReg 2
  (entered.afterFetch.storeViaX entered.t).afterFetch

theorem atHandlerReturn_d : s.atHandlerReturn.d = s.d := by
  simp [atHandlerReturn, afterFetch, storeViaX, storeViaN]

theorem atHandlerReturn_df : s.atHandlerReturn.df = s.df := by
  simp [atHandlerReturn, afterFetch, storeViaX, storeViaN]

variable {s} (hx : s.x = 2) (hp : s.p = 1)

section
include hp

/-- Only the handler's own program counter and the stack pointer move. -/
theorem atHandlerReturn_reg {n : Nib} (hn : n ≠ 1#4) :
    s.atHandlerReturn.reg n = if n = 2 then s.reg 2 - 1 else s.reg n := by
  simp [atHandlerReturn, afterFetch, advancePc, storeViaX, storeViaN, hp, reg_incReg, reg_decReg, hn]

include hx

/-- SAV stores T one below the old stack pointer. -/
theorem atHandlerReturn_memRead (a : Word) :
    s.atHandlerReturn.memRead a = if s.cellOf a = s.cellOf (s.reg 2 - 1) then s.t else s.memRead a := by
  have hpointer : (s.afterFetch.decReg 2).afterFetch.reg s.x = s.reg 2 - 1 := by
    simp [afterFetch, advancePc, hx, hp, reg_incReg]
  rw [← hpointer]
  exact memRead_memWrite (s.afterFetch.decReg 2).afterFetch _ a s.t

end

end State

/-- In a machine with X = 2 and P = 1, DEC 2, SAV and a return load X and P from the nibbles of T, and move the stack
pointer down and up again. -/
theorem exec_return_atHandlerReturn {a : State} (hx : a.x = 2) (hp : a.p = 1) {c : Instr × Bool}
    (hc : c ∈ [(Instr.ret, true), (Instr.dis, false)]) :
    ∃ t, exec c.1 a.atHandlerReturn = .next t ∧ t.x = hiNib a.t ∧ t.p = loNib a.t ∧ t.ie = c.2 ∧
      (∀ n, n ≠ 1 → t.reg n = a.reg n) ∧ t.d = a.d ∧ t.df = a.df ∧ a.MemKeptBut t (a.reg 2 - 1) := by
  have hexec : exec c.1 a.atHandlerReturn = .next (a.atHandlerReturn.returnFromInterrupt c.2) := by
    simp only [List.mem_cons, List.not_mem_nil, or_false] at hc
    rcases hc with rfl | rfl <;> rfl
  have hpointer : a.atHandlerReturn.x = 2 := hx
  have hstack : a.atHandlerReturn.reg 2 = a.reg 2 - 1 := by
    rw [State.atHandlerReturn_reg hp (by decide), if_pos rfl]
  have hbyte : a.atHandlerReturn.memRead (a.reg 2 - 1) = a.t := by
    rw [State.atHandlerReturn_memRead hx hp, if_pos rfl]
  refine ⟨_, hexec, ?_, ?_, rfl, fun n hn => ?_, a.atHandlerReturn_d, a.atHandlerReturn_df, fun b hb => ?_⟩
  · rw [State.returnFromInterrupt_x, hpointer, hstack, hbyte]
  · rw [State.returnFromInterrupt_p, hpointer, hstack, hbyte]
  · rw [State.returnFromInterrupt_reg, State.reg_incReg, hpointer, hstack, State.atHandlerReturn_reg hp hn]
    split
    case isTrue h => rw [h, BitVec.sub_add_cancel]
    case isFalse => rfl
  · rw [State.returnFromInterrupt_memRead, State.atHandlerReturn_memRead hx hp, if_neg hb]

/-- Settles O21: after the acknowledgement X = 2, P = 1 and T is the saved pair, which the return loads. -/
theorem returnUndoesAcknowledgement : Obligations.ReturnUndoesAcknowledgement := by
  unfold Obligations.ReturnUndoesAcknowledgement
  intro s
  refine ⟨_, _, rfl, rfl, fun c hc => ?_⟩
  obtain ⟨t, hexec, hx, hp, hie, hkept⟩ := exec_return_atHandlerReturn (a := s.interruptAck) rfl rfl hc
  rw [s.interruptAck_eq] at hkept
  exact ⟨t, hexec, hx.trans (hiNib_nibPair s.x s.p), hp.trans (loNib_nibPair s.x s.p), hie, hkept⟩

end Sys2Proof.Machine
end

section
/-! PROOFS. After ApplyEvents the last due event for a flag line or an input latch stands (60_exceptions.md R238, R240). -/

namespace Sys2Proof.Machine

/-! ### Latches and their model (10_state.md R30) -/

namespace Latches

variable (l : Latches) (port other : Port) (b : Byte)

@[simp] theorem model_setInput : (l.setInput port b).model = l.model := by cases l <;> rfl

@[simp] theorem model_setOutput : (l.setOutput port b).model = l.model := by cases l <;> rfl

theorem outputOf_setInput_of_split (h : l.model = .split) : (l.setInput port b).outputOf other = l.outputOf other := by
  cases l with
  | shared v => cases h
  | split o i => rfl

theorem inputOf_setOutput_of_split (h : l.model = .split) : (l.setOutput port b).inputOf other = l.inputOf other := by
  cases l with
  | shared v => cases h
  | split o i => rfl

/-- Under `shared` the latch OUT writes is the one INP reads. -/
theorem outputOf_eq_inputOf_of_shared (h : l.model = .shared) : l.outputOf port = l.inputOf port := by
  cases l with
  | shared v => rfl
  | split o i => cases h

end Latches

namespace State

variable (s : State)

/-! ### One event -/

theorem applyEvent_latches_model (e : Event) : (s.applyEvent e).latches.model = s.latches.model := by
  unfold applyEvent
  split
  case h_1 | h_2 => rfl
  case h_3 => exact s.latches.model_setInput _ _

theorem portOut_applyEvent_of_split (e : Event) (h : s.latches.model = .split) (port : Port) :
    (s.applyEvent e).portOut port = s.portOut port := by
  unfold applyEvent
  split
  case h_1 | h_2 => rfl
  case h_3 => exact s.latches.outputOf_setInput_of_split _ _ _ h

/-! ### The due events in order -/

/-- A piece of state that one event sets to a value or leaves has, after a list of events, the last value given. -/
theorem foldl_applyEvent_last {α : Type} {get : State → α} {value : Event → Option α}
    (h : ∀ (s : State) (e : Event), get (s.applyEvent e) = (value e).getD (get s)) (events : List Event) :
    get (events.foldl applyEvent s) = ((events.filterMap value).getLast?).getD (get s) := by
  induction events generalizing s with
  | nil => rfl
  | cons e events ih =>
    rw [List.foldl_cons, ih, h]
    cases hv : value e with
    | none => simp [hv]
    | some v => simp [hv, List.getLast?_cons]

theorem efOf_foldl_applyEvent (line : EfLine) (events : List Event) :
    (events.foldl applyEvent s).efOf line = ((flagValues line events).getLast?).getD (s.efOf line) := by
  refine s.foldl_applyEvent_last (get := fun s => s.efOf line) (fun s e => ?_) events
  unfold applyEvent
  cases e.kind with
  | flag l v =>
    rw [efOf_setEf]
    by_cases h : l = line
    · simp [h]
    · simp [h, Ne.symm h]
  | interrupt => rfl
  | input port v => rfl

theorem portIn_foldl_applyEvent (port : Port) (events : List Event) :
    (events.foldl applyEvent s).portIn port = ((inputValues port events).getLast?).getD (s.portIn port) := by
  refine s.foldl_applyEvent_last (get := fun s => s.portIn port) (fun s e => ?_) events
  unfold applyEvent
  cases e.kind with
  | flag l v => rfl
  | interrupt => rfl
  | input p v =>
    rw [portIn_setPortIn]
    by_cases h : p = port
    · simp [h]
    · simp [h, Ne.symm h]

theorem latches_model_foldl_applyEvent (events : List Event) :
    (events.foldl applyEvent s).latches.model = s.latches.model := by
  induction events generalizing s with
  | nil => rfl
  | cons e events ih => rw [List.foldl_cons, ih, applyEvent_latches_model]

theorem portOut_foldl_applyEvent_of_split (events : List Event) (h : s.latches.model = .split) (port : Port) :
    (events.foldl applyEvent s).portOut port = s.portOut port := by
  induction events generalizing s with
  | nil => rfl
  | cons e events ih =>
    rw [List.foldl_cons, ih _ ((s.applyEvent_latches_model e).trans h), s.portOut_applyEvent_of_split e h]

/-! ### ApplyEvents -/

theorem applyEvents_efOf (line : EfLine) :
    s.applyEvents.efOf line = ((flagValues line (dueAt s.nowNs s.queue)).getLast?).getD (s.efOf line) := by
  rw [applyEvents_eq]
  exact s.efOf_foldl_applyEvent line _

theorem applyEvents_portIn (port : Port) :
    s.applyEvents.portIn port = ((inputValues port (dueAt s.nowNs s.queue)).getLast?).getD (s.portIn port) := by
  rw [applyEvents_eq]
  exact s.portIn_foldl_applyEvent port _

@[simp] theorem applyEvents_latches_model : s.applyEvents.latches.model = s.latches.model := by
  rw [applyEvents_eq]
  exact s.latches_model_foldl_applyEvent _

theorem applyEvents_portOut_of_split (h : s.latches.model = .split) (port : Port) :
    s.applyEvents.portOut port = s.portOut port := by
  rw [applyEvents_eq]
  exact s.portOut_foldl_applyEvent_of_split _ h port

theorem portOut_eq_portIn_of_shared (h : s.latches.model = .shared) (port : Port) : s.portOut port = s.portIn port :=
  s.latches.outputOf_eq_inputOf_of_shared port h

end State

/-- Settles O23: the fold of the due events, on each of the pieces of state they can set. -/
theorem theLastDueEventWins : Obligations.TheLastDueEventWins := by
  unfold Obligations.TheLastDueEventWins
  exact fun s line port => ⟨s.applyEvents_efOf line, s.applyEvents_portIn port, s.applyEvents_latches_model,
    fun hsplit => s.applyEvents_portOut_of_split hsplit port,
    fun hshared => s.applyEvents.portOut_eq_portIn_of_shared (s.applyEvents_latches_model.trans hshared) port⟩

end Sys2Proof.Machine
end

section
/-! PROOFS. The queue of a launch (60_exceptions.md R236) and an injected event (60_exceptions.md R245). -/

namespace Sys2Proof.Machine

/-! ### The queue of a launch -/

/-- The first ApplyEvents takes the events at time 0 off the sorted log. -/
theorem launch_queue {lc : LaunchConfig} {s : State} (h : launch lc = .ok s) :
    ∃ log, parseLog lc.eventLog = .ok log ∧ s.queue = (sortEvents log).filter (fun e => e.time != 0) := by
  obtain ⟨-, cycleNs, rp, ie, q, ef, startPc, log, -, -, -, -, -, -, hlog, rfl⟩ := launch_eq_ok h
  refine ⟨log, hlog, ?_⟩
  rw [State.applyEvents_queue_eq_filter (by rw [launchState_queue]; exact sortEvents_ascending log),
    launchState_queue, launchState_nowNs]
  refine List.filter_congr fun e _ => ?_
  rw [Bool.eq_iff_iff, decide_eq_true_iff, bne_iff_ne, Nat.pos_iff_ne_zero, Ne, Ne, Fin.ext_iff]
  rfl

/-- Settles O25: the sort is a stable one, and the launch applies the events at time 0. -/
theorem theQueueIsTheStableSortOfTheLog : Obligations.TheQueueIsTheStableSortOfTheLog := by
  unfold Obligations.TheQueueIsTheStableSortOfTheLog
  exact ⟨fun log => ⟨sortEvents_perm log, sortEvents_ascending log, filter_time_sortEvents log⟩, fun _ _ => launch_queue⟩

/-! ### Numbers the host writes, in range or not (60_exceptions.md R246) -/

theorem fitBits_eq_some_iff {w v : Nat} {b : BitVec w} : fitBits w v = some b ↔ b.toNat = v := by
  unfold fitBits
  split
  case isTrue h =>
    rw [Option.some.injEq, BitVec.toNat_eq, BitVec.toNat_ofNat, Nat.mod_eq_of_lt h, eq_comm]
  case isFalse h =>
    have := b.isLt
    simp only [reduceCtorEq, false_iff]
    omega

theorem fitBits_eq_none_iff {w v : Nat} : fitBits w v = none ↔ 2 ^ w ≤ v := by
  simp [fitBits]

theorem fitBit_eq_some_iff {v : Nat} {b : Bool} : fitBit v = some b ↔ b.toNat = v := by
  unfold fitBit
  split
  case isTrue h => interval_cases v <;> cases b <;> simp
  case isFalse h =>
    have := b.toNat_lt
    simp only [reduceCtorEq, false_iff]
    omega

theorem fitBit_eq_none_iff {v : Nat} : fitBit v = none ↔ 1 < v := by
  simp only [fitBit, ite_eq_right_iff, reduceCtorEq, imp_false, not_lt]
  omega

theorem efLine_ofNumber_eq_some_iff {n : Nat} {line : EfLine} : EfLine.ofNumber n = some line ↔ line.number = n := by
  constructor
  · intro h
    unfold EfLine.ofNumber at h
    split at h <;> cases h <;> rfl
  · rintro rfl
    cases line <;> rfl

theorem efLine_number_range (line : EfLine) : 1 ≤ line.number ∧ line.number ≤ 4 := by cases line <;> decide

theorem efLine_ofNumber_eq_none_iff {n : Nat} : EfLine.ofNumber n = none ↔ n < 1 ∨ 4 < n := by
  constructor
  · intro h
    by_contra hrange
    have : 1 ≤ n ∧ n ≤ 4 := by omega
    obtain ⟨h1, h4⟩ := this
    interval_cases n <;> cases h
  · intro h
    refine Option.eq_none_iff_forall_ne_some.mpr fun line hline => ?_
    have := efLine_number_range line
    rw [efLine_ofNumber_eq_some_iff] at hline
    omega

theorem port_ofNumber_eq_some_iff {n : Nat} {port : Port} : Port.ofNumber n = some port ↔ port.number = n := by
  constructor
  · intro h
    unfold Port.ofNumber at h
    split at h <;> cases h <;> rfl
  · rintro rfl
    cases port <;> rfl

theorem port_number_range (port : Port) : 1 ≤ port.number ∧ port.number ≤ 7 := by cases port <;> decide

theorem port_ofNumber_eq_none_iff {n : Nat} : Port.ofNumber n = none ↔ n < 1 ∨ 7 < n := by
  constructor
  · intro h
    by_contra hrange
    have : 1 ≤ n ∧ n ≤ 7 := by omega
    obtain ⟨h1, h7⟩ := this
    interval_cases n <;> cases h
  · intro h
    refine Option.eq_none_iff_forall_ne_some.mpr fun port hport => ?_
    have := port_number_range port
    rw [port_ofNumber_eq_some_iff] at hport
    omega

/-! ### An injected event -/

/-- The kind a host's numbers stand for. -/
def RawKind.StandsFor : RawKind → EventKind → Prop
  | .flag line value, k => ∃ l v, k = .flag l v ∧ l.number = line ∧ v.toNat = value
  | .interrupt, k => k = .interrupt
  | .input port value, k => ∃ p b, k = .input p b ∧ p.number = port ∧ b.toNat = value

/-- A number of the kind is out of range. -/
def RawKind.OutOfRange : RawKind → Prop
  | .flag line value => line < 1 ∨ 4 < line ∨ 1 < value
  | .interrupt => False
  | .input port value => port < 1 ∨ 7 < port ∨ 255 < value

/-- A checked event is the one the host wrote. -/
theorem rawEvent_checked_eq_some {e : RawEvent} {ev : Event} (h : e.checked = some ev) :
    ev.time.val = e.time ∧ e.kind.StandsFor ev.kind := by
  obtain ⟨time, kind⟩ := e
  unfold RawEvent.checked at h
  split at h
  case isFalse => cases h
  case isTrue =>
    cases kind with
    | flag line value =>
      dsimp only at h
      split at h
      case h_1 l v hl hv =>
        cases h
        exact ⟨rfl, l, v, rfl, efLine_ofNumber_eq_some_iff.mp hl, fitBit_eq_some_iff.mp hv⟩
      case h_2 => cases h
    | interrupt =>
      cases h
      exact ⟨rfl, rfl⟩
    | input port value =>
      dsimp only at h
      split at h
      case h_1 p b hp hb =>
        cases h
        exact ⟨rfl, p, b, rfl, port_ofNumber_eq_some_iff.mp hp, fitBits_eq_some_iff.mp hb⟩
      case h_2 => cases h

theorem rawEvent_checked_eq_none_iff (e : RawEvent) :
    e.checked = none ↔ 2 ^ 64 ≤ e.time ∨ e.kind.OutOfRange := by
  obtain ⟨time, kind⟩ := e
  unfold RawEvent.checked
  by_cases htime : time < 2 ^ 64
  case neg =>
    rw [dif_neg htime]
    exact iff_of_true rfl (.inl (Nat.le_of_not_lt htime))
  case pos =>
    rw [dif_pos htime, or_iff_right (Nat.not_le_of_lt htime)]
    cases kind with
    | flag line value =>
      dsimp only
      rw [RawKind.OutOfRange, ← or_assoc, ← efLine_ofNumber_eq_none_iff, ← fitBit_eq_none_iff]
      cases EfLine.ofNumber line <;> cases fitBit value <;> simp
    | interrupt => simp [RawKind.OutOfRange]
    | input port value =>
      have hbyte : 255 < value ↔ fitBits 8 value = none := (fitBits_eq_none_iff (w := 8)).symm
      dsimp only
      rw [RawKind.OutOfRange, ← or_assoc, ← port_ofNumber_eq_none_iff, hbyte]
      cases Port.ofNumber port <;> cases fitBits 8 value <;> simp

/-- Settles O26: the injection is refused where the check fails, and otherwise inserts the checked event. -/
theorem anInjectedEventTakesItsPlace : Obligations.AnInjectedEventTakesItsPlace := by
  unfold Obligations.AnInjectedEventTakesItsPlace
  intro s e hs
  refine ⟨fun ev hev => ?_, fun hnone => ?_, ?_⟩
  · obtain ⟨htime, hkind⟩ := rawEvent_checked_eq_some hev
    obtain ⟨before, after, hqueue, hins, hbefore, hafter⟩ := insertEvent_split ev hs.queueAscending
    have hstep : hostStep s (.inject e) = .next (s.setQueue (insertEvent ev s.queue)) := by
      simp only [hostStep, hostInject, hev, pokeWith]
    refine ⟨htime, fun line value h => ?_, fun h => ?_, fun port value h => ?_,
      _, before, after, hstep, rfl, hqueue, hins, hbefore, hafter⟩
    all_goals
      rw [h] at hkind
      exact hkind
  · simp only [hostStep, hostInject, hnone, pokeWith]
  · rw [rawEvent_checked_eq_none_iff]
    cases e.kind <;> simp [RawKind.OutOfRange]

end Sys2Proof.Machine
end

section
/-! PROOFS. Which lines of the event log are accepted, and how its text is cut into lines (60_exceptions.md R242, R243). -/

namespace Sys2Proof.Machine

/-! ### Cutting and joining -/

/-- Pieces without the separator are what a text is cut into exactly when the text is their join. -/
theorem splitAtChar_eq_iff_eq_intercalate {sep : Char} {pieces : List (List Char)} (hne : pieces ≠ [])
    (hpieces : ∀ p ∈ pieces, sep ∉ p) {l : List Char} : splitAtChar sep l = pieces ↔ l = [sep].intercalate pieces := by
  induction pieces generalizing l with
  | nil => exact absurd rfl hne
  | cons p ps ih =>
    obtain ⟨hp, hps⟩ := List.forall_mem_cons.mp hpieces
    rw [splitAtChar_eq_cons_iff]
    cases ps with
    | nil => simp [hp, splitAtChar_ne_nil]
    | cons p' ps =>
      simp only [ih (List.cons_ne_nil p' ps) hps, hp, not_false_eq_true, true_and, reduceCtorEq, false_and, false_or]
      simp [List.intercalate]

/-! ### The fields of a line -/

/-- The fields of a line that denotes an event, with `time` as the text of its time. -/
def IsFieldsOf (time : List Char) (e : Event) (fields : List (List Char)) : Prop :=
  (∃ l v, e.kind = .flag l v ∧
    fields = [time, "flag".toList, ['e', 'f', Char.ofNat (48 + l.number)], [if v then '1' else '0']]) ∨
  (e.kind = .interrupt ∧ fields = [time, "int".toList]) ∨
  (∃ p b h l vh vl, e.kind = .input p b ∧
    fields = [time, "input".toList, ['i', 'o', Char.ofNat (48 + p.number)], [h, l]] ∧
    IsHexDigit h vh ∧ IsHexDigit l vl ∧ b.toNat = 16 * vh + vl)

theorem parseFlag_eq_ok_iff {time : Fin (2 ^ 64)} {fields : List (List Char)} {e : Event} :
    parseFlag time fields = .ok e ↔
      ∃ l v, e = ⟨time, .flag l v⟩ ∧ fields = [['e', 'f', Char.ofNat (48 + l.number)], [if v then '1' else '0']] := by
  constructor
  · intro h
    unfold parseFlag at h
    split at h
    case h_1 =>
      split at h
      case h_1 l v hl hv =>
        cases h
        exact ⟨l, v, rfl, by rw [parseEfLine_eq_some_iff.mp hl, parseFlagValue_eq_some_iff.mp hv]⟩
      case h_2 => cases h
      case h_3 => cases h
    case h_2 => cases h
  · rintro ⟨l, v, rfl, rfl⟩
    simp only [parseFlag, parseEfLine_eq_some_iff.mpr rfl, parseFlagValue_eq_some_iff.mpr rfl]

theorem parseInt_eq_ok_iff {time : Fin (2 ^ 64)} {fields : List (List Char)} {e : Event} :
    parseInt time fields = .ok e ↔ e = ⟨time, .interrupt⟩ ∧ fields = [] := by
  cases fields <;> simp [parseInt, eq_comm]

theorem parseInput_eq_ok_iff {time : Fin (2 ^ 64)} {fields : List (List Char)} {e : Event} :
    parseInput time fields = .ok e ↔
      ∃ p b h l vh vl, e = ⟨time, .input p b⟩ ∧ fields = [['i', 'o', Char.ofNat (48 + p.number)], [h, l]] ∧
        IsHexDigit h vh ∧ IsHexDigit l vl ∧ b.toNat = 16 * vh + vl := by
  constructor
  · intro hparse
    unfold parseInput at hparse
    split at hparse
    case h_1 =>
      split at hparse
      case h_1 p b hp hb =>
        cases hparse
        obtain ⟨h, l, vh, vl, rfl, hh, hl, hv⟩ := parseHexByte_eq_some_iff.mp hb
        exact ⟨p, b, h, l, vh, vl, rfl, by rw [parsePort_eq_some_iff.mp hp], hh, hl, hv⟩
      case h_2 => cases hparse
      case h_3 => cases hparse
    case h_2 => cases hparse
  · rintro ⟨p, b, h, l, vh, vl, rfl, rfl, hh, hl, hv⟩
    simp only [parseInput, parsePort_eq_some_iff.mpr rfl, parseHexByte_eq_some_iff.mpr ⟨h, l, vh, vl, rfl, hh, hl, hv⟩]

theorem parseFields_eq_ok_iff {fields : List (List Char)} {e : Event} :
    parseFields fields = .ok e ↔
      ∃ time, IsDecimal time ∧ decimalValue time = e.time.val ∧ IsFieldsOf time e fields := by
  constructor
  · intro h
    unfold parseFields at h
    split at h
    case h_2 => cases h
    case h_1 time kind fields =>
      split at h
      case h_1 => cases h
      case h_2 t ht =>
        obtain ⟨hdigits, hvalue⟩ := parseTime_eq_some_iff.mp ht
        refine ⟨time, hdigits, ?_⟩
        split_ifs at h with hflag hint hinput
        · obtain ⟨l, v, rfl, rfl⟩ := parseFlag_eq_ok_iff.mp h
          exact ⟨hvalue, .inl ⟨l, v, rfl, by rw [hflag]; rfl⟩⟩
        · obtain ⟨rfl, rfl⟩ := parseInt_eq_ok_iff.mp h
          exact ⟨hvalue, .inr (.inl ⟨rfl, by rw [hint]; rfl⟩)⟩
        · obtain ⟨p, b, hi, lo, vh, vl, rfl, rfl, hbyte⟩ := parseInput_eq_ok_iff.mp h
          exact ⟨hvalue, .inr (.inr ⟨p, b, hi, lo, vh, vl, rfl, by rw [hinput]; rfl, hbyte⟩)⟩
  · obtain ⟨t, k⟩ := e
    rintro ⟨time, hdigits, hvalue, hfields⟩
    have ht : parseTime time = some t := parseTime_eq_some_iff.mpr ⟨hdigits, hvalue⟩
    rcases hfields with ⟨l, v, rfl, rfl⟩ | ⟨rfl, rfl⟩ | ⟨p, b, hi, lo, vh, vl, rfl, rfl, hbyte⟩
    · simpa [parseFields, ht] using parseFlag_eq_ok_iff.mpr ⟨l, v, rfl, rfl⟩
    · simpa [parseFields, ht] using parseInt_eq_ok_iff.mpr ⟨rfl, rfl⟩
    · simpa [parseFields, ht] using parseInput_eq_ok_iff.mpr ⟨p, b, hi, lo, vh, vl, rfl, rfl, hbyte⟩

/-! ### The line -/

theorem IsDecimal.comma_notMem {text : List Char} (h : IsDecimal text) : ',' ∉ text :=
  fun hmem => absurd (h.2 ',' hmem) (by decide)

theorem IsHexDigit.ne_comma {c : Char} {v : Nat} (h : IsHexDigit c v) : c ≠ ',' := by
  rintro rfl
  have hv := h.lt
  unfold IsHexDigit at h
  interval_cases v <;> simp at h

/-- No field of an event holds a comma. -/
theorem IsFieldsOf.comma_notMem {time : List Char} {e : Event} {fields : List (List Char)} (htime : IsDecimal time)
    (h : IsFieldsOf time e fields) : ∀ p ∈ fields, ',' ∉ p := by
  rcases h with ⟨l, v, -, rfl⟩ | ⟨-, rfl⟩ | ⟨p, b, h, l, vh, vl, -, rfl, hh, hl, -⟩
  · simp only [List.forall_mem_cons]
    refine ⟨htime.comma_notMem, by decide, ?_, ?_, List.forall_mem_nil _⟩
    · cases l <;> decide
    · cases v <;> decide
  · simp only [List.forall_mem_cons]
    exact ⟨htime.comma_notMem, by decide, List.forall_mem_nil _⟩
  · simp only [List.forall_mem_cons]
    refine ⟨htime.comma_notMem, by decide, ?_, ?_, List.forall_mem_nil _⟩
    · cases p <;> decide
    · simp [hh.ne_comma.symm, hl.ne_comma.symm]

theorem IsFieldsOf.ne_nil {time : List Char} {e : Event} {fields : List (List Char)} (h : IsFieldsOf time e fields) :
    fields ≠ [] := by
  rcases h with ⟨_, _, -, rfl⟩ | ⟨-, rfl⟩ | ⟨_, _, _, _, _, _, -, rfl, -⟩ <;> exact List.cons_ne_nil _ _

/-- A line is accepted exactly when it is the join of an event's fields. -/
theorem parseLine_eq_ok_iff {line : List Char} {e : Event} :
    parseLine line = .ok e ↔ ∃ time, IsDecimal time ∧ decimalValue time = e.time.val ∧
      ∃ fields, IsFieldsOf time e fields ∧ line = [','].intercalate fields := by
  rw [parseLine, parseFields_eq_ok_iff]
  refine exists_congr fun time => and_congr_right fun htime => and_congr_right fun _ => ?_
  constructor
  · intro h
    exact ⟨_, h, (splitAtChar_eq_iff_eq_intercalate h.ne_nil (h.comma_notMem htime)).mp rfl⟩
  · rintro ⟨fields, h, hline⟩
    rwa [(splitAtChar_eq_iff_eq_intercalate h.ne_nil (h.comma_notMem htime)).mpr hline]

/-- The join of an event's fields, written out for the three kinds. -/
theorem exists_isFieldsOf_intercalate_iff {time line : List Char} {e : Event} :
    (∃ fields, IsFieldsOf time e fields ∧ line = [','].intercalate fields) ↔
      (∃ l v, e.kind = .flag l v ∧
        line = time ++ ",flag,ef".toList ++ [Char.ofNat (48 + l.number), ',', if v then '1' else '0']) ∨
      (e.kind = .interrupt ∧ line = time ++ ",int".toList) ∨
      (∃ p b h l vh vl, e.kind = .input p b ∧
        line = time ++ ",input,io".toList ++ [Char.ofNat (48 + p.number), ',', h, l] ∧
        IsHexDigit h vh ∧ IsHexDigit l vl ∧ b.toNat = 16 * vh + vl) := by
  constructor
  · rintro ⟨fields, ⟨l, v, hk, rfl⟩ | ⟨hk, rfl⟩ | ⟨p, b, h, l, vh, vl, hk, rfl, hbyte⟩, rfl⟩
    · exact .inl ⟨l, v, hk, by simp [List.intercalate]⟩
    · exact .inr (.inl ⟨hk, by simp [List.intercalate]⟩)
    · exact .inr (.inr ⟨p, b, h, l, vh, vl, hk, by simp [List.intercalate], hbyte⟩)
  · rintro (⟨l, v, hk, rfl⟩ | ⟨hk, rfl⟩ | ⟨p, b, h, l, vh, vl, hk, rfl, hbyte⟩)
    · exact ⟨_, .inl ⟨l, v, hk, rfl⟩, by simp [List.intercalate]⟩
    · exact ⟨_, .inr (.inl ⟨hk, rfl⟩), by simp [List.intercalate]⟩
    · exact ⟨_, .inr (.inr ⟨p, b, h, l, vh, vl, hk, rfl, hbyte⟩), by simp [List.intercalate]⟩

/-! ### The obligation -/

/-- Settles O27: a line is the join of its fields, a text has one list of lines, and the lines are parsed in order. -/
theorem whichLogLinesAreAccepted : Obligations.WhichLogLinesAreAccepted := by
  unfold Obligations.WhichLogLinesAreAccepted
  refine ⟨fun line e => ?_, fun text => ⟨⟨_, isLinesOf_dropEmptyLast _⟩, fun lines hlines => ⟨fun events => ?_, ?_⟩⟩⟩
  · simp only [parseLine_eq_ok_iff, exists_isFieldsOf_intercalate_iff]
  · rw [parseLog, hlines.eq, parseLines_eq_ok_iff]
  · rintro before line why after rfl hbefore hbad
    rw [parseLog, hlines.eq, parseLines_eq_bad after hbad hbefore, Nat.add_comm]

end Sys2Proof.Machine
end

section
/-! PROOFS. Memory as data: canonical memories that read alike are equal (20_memory.md R50), and a store is seen by the
next fetch (20_memory.md R61). -/

namespace Sys2Proof.Machine

namespace Memory

/-- A canonical memory reads as unlisted at and below a number that all its cells are above. -/
theorem read_eq_unlisted_of_le {m : Memory} {a b : Nat} (h : ∀ c ∈ m, a < c.1) (hb : b ≤ a) : read b m = unlisted :=
  read_eq_unlisted_of_forall_ne fun c hc => by
    have := h c hc
    omega

/-- The first cell of a canonical memory is listed, at or after its own first cell, by any canonical memory that reads
the same. -/
theorem head_le_head {c c' : Host.Cell} {m m' : Memory} (h : wf (c :: m) = true) (h' : wf (c' :: m') = true)
    (hread : ∀ a, read a (c :: m) = read a (c' :: m')) : c'.1 ≤ c.1 := by
  by_contra hlt
  obtain ⟨hlisted, -, -⟩ := (wf_cons c m).mp h
  obtain ⟨-, habove, -⟩ := (wf_cons c' m').mp h'
  have hcells : ∀ d ∈ c' :: m', c.1 < d.1 :=
    List.forall_mem_cons.mpr ⟨by omega, fun d hd => by have := habove d hd; omega⟩
  refine hlisted ?_
  rw [← read_of_wf_cons (m := m), hread, read_eq_unlisted_of_le hcells le_rfl]

/-- Canonical memories that read alike have the same first cell, and so on through the list. -/
theorem eq_of_read_eq {m m' : Memory} (h : wf m = true) (h' : wf m' = true) (hread : ∀ a, read a m = read a m') :
    m = m' := by
  induction m generalizing m' with
  | nil =>
    cases m' with
    | nil => rfl
    | cons c' m' =>
      obtain ⟨hlisted, -⟩ := (wf_cons c' m').mp h'
      exact absurd ((read_of_wf_cons (m := m')).symm.trans (hread c'.1).symm) hlisted
  | cons c m ih =>
    cases m' with
    | nil =>
      obtain ⟨hlisted, -⟩ := (wf_cons c m).mp h
      exact absurd ((read_of_wf_cons (m := m)).symm.trans (hread c.1)) hlisted
    | cons c' m' =>
      obtain ⟨-, habove, hm⟩ := (wf_cons c m).mp h
      obtain ⟨-, habove', hm'⟩ := (wf_cons c' m').mp h'
      have hcell : c.1 = c'.1 := le_antisymm (head_le_head h' h fun a => (hread a).symm) (head_le_head h h' hread)
      have hbyte : c.2 = c'.2 := by
        have := hread c.1
        rwa [read_of_wf_cons, hcell, read_of_wf_cons] at this
      obtain rfl : c = c' := Prod.ext hcell hbyte
      rw [ih hm hm' fun a => ?_]
      by_cases ha : a = c.1
      · rw [ha, read_eq_unlisted_of_le habove le_rfl, read_eq_unlisted_of_le habove' le_rfl]
      · simpa [read, Ne.symm ha] using hread a

end Memory

/-- Settles O31: `Memory.eq_of_read_eq`. -/
theorem memoriesThatReadAlikeAreEqual : Obligations.MemoriesThatReadAlikeAreEqual := by
  unfold Obligations.MemoriesThatReadAlikeAreEqual
  exact fun _ _ => Memory.eq_of_read_eq

/-- Settles O33: the store's address is the next fetch's, since STR moves no register. -/
theorem aStoreIsSeenByTheNextFetch : Obligations.AStoreIsSeenByTheNextFetch := by
  unfold Obligations.AStoreIsSeenByTheNextFetch
  exact fun s => ⟨_, rfl, s.memRead_memWrite_same s.pc s.d, rfl⟩

end Sys2Proof.Machine
end

section
/-! PROOFS. Which configurations are refused (70_reset_and_hazards.md R274), and what a launch leaves (R270, R271). -/

namespace Sys2Proof.Machine

/-! ### The checks, one by one -/

theorem exists_cycleLength_iff {given clock : Option Ratio} :
    (∃ c, cycleLength given clock = .ok c) ↔
      (∃ c, given = some c ∧ clock = none ∧ 0 < c.num ∧ 0 < c.den) ∨
      (∃ h, clock = some h ∧ given = none ∧ 0 < h.num ∧ 0 < h.den) := by
  constructor
  · rintro ⟨c, hc⟩
    obtain ⟨hgiven, hclock, hpos⟩ | ⟨hgiven, h, hclock, hnum, hden, -⟩ := cycleLength_eq_ok hc
    · exact .inl ⟨c, hgiven, hclock, hpos⟩
    · exact .inr ⟨h, hclock, hgiven, hnum, hden⟩
  · rintro (⟨c, rfl, rfl, hpos⟩ | ⟨h, rfl, rfl, hpos⟩)
    · exact ⟨_, if_pos ((ratioPositive_iff c).mpr hpos)⟩
    · exact ⟨_, if_pos ((ratioPositive_iff h).mpr hpos)⟩

theorem initialWord_eq_ok_iff {parameter : String} {v : Nat} {w : Word} :
    initialWord parameter v = .ok w ↔ w.toNat = v := by
  unfold initialWord
  split
  case isTrue h =>
    rw [Checked.ok.injEq, BitVec.toNat_eq, BitVec.toNat_ofNat, Nat.mod_eq_of_lt h, eq_comm]
  case isFalse h =>
    have := w.isLt
    simp only [reduceCtorEq, false_iff]
    omega

theorem exists_initialWord_iff {parameter : String} {v : Nat} : (∃ w, initialWord parameter v = .ok w) ↔ v < 65536 := by
  simp only [initialWord_eq_ok_iff]
  exact ⟨fun ⟨w, hw⟩ => hw ▸ w.isLt, fun hv => ⟨BitVec.ofNat 16 v, Nat.mod_eq_of_lt hv⟩⟩

theorem initialBit_eq_ok_iff {parameter : String} {v : Nat} {b : Bool} :
    initialBit parameter v = .ok b ↔ b.toNat = v := by
  unfold initialBit
  split
  case isTrue h => interval_cases v <;> cases b <;> simp
  case isFalse h =>
    have := b.toNat_lt
    simp only [reduceCtorEq, false_iff]
    omega

theorem exists_initialBit_iff {parameter : String} {v : Nat} : (∃ b, initialBit parameter v = .ok b) ↔ v < 2 := by
  simp only [initialBit_eq_ok_iff]
  exact ⟨fun ⟨b, hb⟩ => hb ▸ b.toNat_lt, fun hv => ⟨v == 1, by interval_cases v <;> rfl⟩⟩

theorem initialEf_eq_ok {v : Vector Nat 4} {ef : Vector Bool 4} (h : initialEf v = .ok ef) :
    ∀ k (hk : k < 4), (ef[k]).toNat = v[k] := by
  unfold initialEf at h
  split at h
  case h_1 ha hb hc hd =>
    cases h
    intro k hk
    match k, hk with
    | 0, _ => exact initialBit_eq_ok_iff.mp ha
    | 1, _ => exact initialBit_eq_ok_iff.mp hb
    | 2, _ => exact initialBit_eq_ok_iff.mp hc
    | 3, _ => exact initialBit_eq_ok_iff.mp hd
  all_goals cases h

theorem exists_initialEf_iff {v : Vector Nat 4} : (∃ ef, initialEf v = .ok ef) ↔ ∀ k (hk : k < 4), v[k] < 2 := by
  constructor
  · rintro ⟨ef, hef⟩ k hk
    rw [← initialEf_eq_ok hef k hk]
    exact Bool.toNat_lt _
  · intro h
    obtain ⟨a, ha⟩ := exists_initialBit_iff (parameter := "INIT_EF[1]").mpr (h 0 (by decide))
    obtain ⟨b, hb⟩ := exists_initialBit_iff (parameter := "INIT_EF[2]").mpr (h 1 (by decide))
    obtain ⟨c, hc⟩ := exists_initialBit_iff (parameter := "INIT_EF[3]").mpr (h 2 (by decide))
    obtain ⟨d, hd⟩ := exists_initialBit_iff (parameter := "INIT_EF[4]").mpr (h 3 (by decide))
    exact ⟨#v[a, b, c, d], by simp only [initialEf, ha, hb, hc, hd]⟩

/-- The start address is the given one, where there is one. -/
theorem startAddress_eq_ok {start : Option Nat} {a : Option Word} (h : startAddress start = .ok a) :
    a.map BitVec.toNat = start := by
  cases start with
  | none =>
    cases h
    rfl
  | some v =>
    unfold startAddress at h
    dsimp only at h
    split at h
    case h_1 w hw =>
      cases h
      exact congrArg some (initialWord_eq_ok_iff.mp hw)
    case h_2 => cases h

theorem exists_startAddress_iff {start : Option Nat} :
    (∃ a, startAddress start = .ok a) ↔ ∀ v, start = some v → v < 65536 := by
  cases start with
  | none => exact iff_of_true ⟨none, rfl⟩ fun _ => nofun
  | some v =>
    simp only [Option.some.injEq, forall_eq', ← exists_initialWord_iff (parameter := "START_PC"), startAddress]
    cases initialWord "START_PC" v <;> simp

/-- A configuration that passes every check launches. -/
theorem launch_of_checks {lc : LaunchConfig} {cycleNs : Ratio} {rp : Word} {ie q : Bool} {ef : Vector Bool 4}
    {startPc : Option Word} {log : List Event} (hsizes : checkSizes lc = none)
    (hcycle : cycleLength lc.cycleNs lc.clockHz = .ok cycleNs) (hrp : initialWord "INIT_RP" lc.initRp = .ok rp)
    (hie : initialBit "INIT_IE" lc.initIe = .ok ie) (hq : initialBit "INIT_Q" lc.initQ = .ok q)
    (hef : initialEf lc.initEf = .ok ef) (hstart : startAddress lc.startPc = .ok startPc)
    (hlog : parseLog lc.eventLog = .ok log) :
    launch lc = .ok (launchState lc cycleNs rp ie q ef startPc log).applyEvents := by
  simp only [launch, hsizes, hcycle, hrp, hie, hq, hef, hstart, hlog]

/-- Settles O35: the launch passes exactly when each of its checks does. -/
theorem exactlyTheFaultyConfigurationsAreRefused : Obligations.ExactlyTheFaultyConfigurationsAreRefused := by
  unfold Obligations.ExactlyTheFaultyConfigurationsAreRefused
  intro lc
  rw [← exists_cycleLength_iff, ← exists_initialWord_iff (parameter := "INIT_RP"),
    ← exists_initialBit_iff (parameter := "INIT_IE"), ← exists_initialBit_iff (parameter := "INIT_Q"),
    ← exists_initialEf_iff, ← exists_startAddress_iff]
  constructor
  · rintro ⟨s, hs⟩
    obtain ⟨hsizes, cycleNs, rp, ie, q, ef, startPc, log, hcycle, hrp, hie, hq, hef, hstart, hlog, -⟩ := launch_eq_ok hs
    obtain ⟨hmem, himage, hack, hidle⟩ := (checkSizes_eq_none_iff lc).mp hsizes
    exact ⟨hmem, himage, hack, hidle, ⟨_, hcycle⟩, ⟨_, hrp⟩, ⟨_, hie⟩, ⟨_, hq⟩, ⟨_, hef⟩, ⟨_, hstart⟩, ⟨_, hlog⟩⟩
  · rintro ⟨hmem, himage, hack, hidle, ⟨_, hcycle⟩, ⟨_, hrp⟩, ⟨_, hie⟩, ⟨_, hq⟩, ⟨_, hef⟩, ⟨_, hstart⟩, ⟨_, hlog⟩⟩
    exact ⟨_, launch_of_checks ((checkSizes_eq_none_iff lc).mpr ⟨hmem, himage, hack, hidle⟩) hcycle hrp hie hq hef hstart
      hlog⟩

/-! ### What a launch leaves -/

/-- The initial flag of a line, by the line's number. -/
theorem initialEf_eq_ok_efIndex {v : Vector Nat 4} {ef : Vector Bool 4} (h : initialEf v = .ok ef) (line : EfLine) :
    (ef[State.efIndex line]).toNat = v.toList.getD (line.number - 1) 0 := by
  have hentry := initialEf_eq_ok h (State.efIndex line).val (State.efIndex line).isLt
  refine hentry.trans ?_
  cases line <;> simp [State.efIndex, EfLine.number]

/-- With no event at time 0 in the log, none is taken off the queue. -/
theorem filter_time_ne_zero_sortEvents {log : List Event} (h : ∀ e ∈ log, e.time ≠ 0) :
    (sortEvents log).filter (fun e => e.time != 0) = sortEvents log :=
  List.filter_eq_self.mpr fun e he => bne_iff_ne.mpr (h e ((sortEvents_perm log).mem_iff.mp he))

section

variable (model : IoLatchModel) (free : LaunchFree) (port : Port)

@[simp] theorem initialLatches_model : (initialLatches model free).model = model := by cases model <;> rfl

theorem initialLatches_inputOf : (initialLatches model free).inputOf port =
    if model = .shared then latchGet free.ports port else latchGet free.inPorts port := by cases model <;> rfl

theorem initialLatches_outputOf : (initialLatches model free).outputOf port = latchGet free.ports port := by
  cases model <;> rfl

end

section

variable (lc : LaunchConfig) (cycleNs : Ratio) (rp : Word) (ie q : Bool) (ef : Vector Bool 4) (startPc : Option Word)
  (log : List Event)

theorem launchState_reg_zero : (launchState lc cycleNs rp ie q ef startPc log).reg 0 = startPc.getD rp := by
  cases startPc with
  | none => exact State.reg_setReg_same _ _ _
  | some a => exact State.reg_setReg_same _ _ _

theorem launchState_reg_other {n : Nib} (hn : n ≠ 0) :
    (launchState lc cycleNs rp ie q ef startPc log).reg n = lc.free.r[n.toNat]'n.isLt := by
  cases startPc with
  | none => exact State.reg_setReg_other _ hn _
  | some a => exact (State.reg_setReg_other _ hn _).trans (State.reg_setReg_other _ hn _)

/-- The events the launch applies are the log's events at time 0, in log order. -/
theorem launchState_dueAt :
    dueAt (launchState lc cycleNs rp ie q ef startPc log).nowNs (launchState lc cycleNs rp ie q ef startPc log).queue =
      log.filter fun e => e.time == 0 := by
  rw [launchState_nowNs, launchState_queue, dueAt_eq_filter 0 (sortEvents_ascending log), ← filter_time_sortEvents]
  refine List.filter_congr fun e _ => ?_
  rw [Bool.eq_iff_iff, decide_eq_true_iff, beq_iff_eq, Nat.le_zero, Fin.ext_iff]
  rfl

end

theorem State.applyEvents_latches_of_dueAt_eq_nil {s : State} (h : dueAt s.nowNs s.queue = []) :
    s.applyEvents.latches = s.latches := by
  rw [applyEvents_eq, h]
  rfl

/-- What a launch gives the parts of the state that no event at time 0 can change. -/
theorem launch_fixed_values {lc : LaunchConfig} {s : State} (h : launch lc = .ok s) :
    s.p = 0 ∧ s.x = 0 ∧ (s.reg 0).toNat = lc.startPc.getD lc.initRp ∧
      (∀ n : Nib, n ≠ 0 → s.reg n = lc.free.r[n.toNat]'n.isLt) ∧ s.ie.toNat = lc.initIe ∧ s.q.toNat = lc.initQ := by
  obtain ⟨-, cycleNs, rp, ie, q, ef, startPc, log, -, hrp, hie, hq, -, hstart, -, rfl⟩ := launch_eq_ok h
  refine ⟨(State.applyEvents_p _).trans (launchState_p ..), (State.applyEvents_x _).trans (launchState_x ..), ?_,
    fun n hn => ?_, ?_, ?_⟩
  · rw [State.applyEvents_reg, launchState_reg_zero, ← startAddress_eq_ok hstart, ← initialWord_eq_ok_iff.mp hrp]
    cases startPc <;> rfl
  · rw [State.applyEvents_reg, launchState_reg_other _ _ _ _ _ _ _ _ hn]
  · rw [State.applyEvents_ie, launchState_ie]
    exact initialBit_eq_ok_iff.mp hie
  · rw [State.applyEvents_q, launchState_q]
    exact initialBit_eq_ok_iff.mp hq

/-- Memory after a launch: the image at its offset, and 0 elsewhere. -/
theorem launch_mem_read {lc : LaunchConfig} {s : State} (h : launch lc = .ok s) :
    (∀ k (hk : k < lc.image.length), s.mem.read (lc.loadOffset + k) = lc.image[k]) ∧
      (∀ a, (a < lc.loadOffset ∨ lc.loadOffset + lc.image.length ≤ a) → s.mem.read a = 0) := by
  obtain ⟨-, _, _, _, _, _, _, _, -, -, -, -, -, -, -, rfl⟩ := launch_eq_ok h
  simp only [State.applyEvents_mem, launchState_mem, Memory.read_load]
  refine ⟨fun k hk => ?_, fun a ha => ?_⟩
  · rw [dif_pos ⟨by omega, by omega⟩]
    simp only [Nat.add_sub_cancel_left]
  · rw [dif_neg (by omega)]
    rfl

/-- The flag lines and the latches after a launch: the last event at time 0, or the configured value. -/
theorem launch_inputs {lc : LaunchConfig} {s : State} (h : launch lc = .ok s) {log : List Event}
    (hlog : parseLog lc.eventLog = .ok log) :
    (∀ line : EfLine, (s.efOf line).toNat =
      (((flagValues line (log.filter (fun e => e.time == 0))).getLast?).map Bool.toNat).getD
        (lc.initEf.toList.getD (line.number - 1) 0)) ∧
    s.latches.model = lc.ioLatchModel ∧
    (∀ port : Port, s.portIn port =
      ((inputValues port (log.filter (fun e => e.time == 0))).getLast?).getD
        (if lc.ioLatchModel = .shared then latchGet lc.free.ports port else latchGet lc.free.inPorts port)) ∧
    (∀ port : Port, s.portOut port =
      if lc.ioLatchModel = .shared then s.portIn port else latchGet lc.free.ports port) := by
  obtain ⟨-, cycleNs, rp, ie, q, ef, startPc, log', -, -, -, -, hef, -, hlog', rfl⟩ := launch_eq_ok h
  obtain rfl : log' = log := Checked.ok.inj (hlog'.symm.trans hlog)
  have hlatches := launchState_latches lc cycleNs rp ie q ef startPc log'
  have hline := launchState_ef lc cycleNs rp ie q ef startPc log'
  have hdue := launchState_dueAt lc cycleNs rp ie q ef startPc log'
  generalize launchState lc cycleNs rp ie q ef startPc log' = u at *
  have hmodel : u.applyEvents.latches.model = lc.ioLatchModel := by
    rw [State.applyEvents_latches_model, hlatches, initialLatches_model]
  refine ⟨fun line => ?_, hmodel, fun port => ?_, fun port => ?_⟩
  · have hbefore : (u.efOf line).toNat = lc.initEf.toList.getD (line.number - 1) 0 := by
      rw [State.efOf, hline]
      exact initialEf_eq_ok_efIndex hef line
    rw [State.applyEvents_efOf, hdue, ← hbefore]
    exact (Option.getD_map _ _ _).symm
  · rw [State.applyEvents_portIn, hdue, State.portIn, hlatches, initialLatches_inputOf]
  · cases hm : lc.ioLatchModel with
    | shared =>
      rw [if_pos rfl]
      exact State.portOut_eq_portIn_of_shared _ (hmodel.trans hm) port
    | split =>
      have hsplit : u.latches.model = .split := by rw [hlatches, initialLatches_model, hm]
      rw [if_neg (by decide), State.applyEvents_portOut_of_split _ hsplit, State.portOut, hlatches,
        initialLatches_outputOf]

/-- The request after a launch, and what a log without events at time 0 leaves. -/
theorem launch_log {lc : LaunchConfig} {s : State} (h : launch lc = .ok s) {log : List Event}
    (hlog : parseLog lc.eventLog = .ok log) :
    (s.intPending = true ↔ ∃ e ∈ log, e.time = 0 ∧ e.kind = .interrupt) ∧
    s.queue = (sortEvents log).filter (fun e => e.time != 0) ∧
    ((∀ e ∈ log, e.time ≠ 0) → s.queue = sortEvents log ∧ s.latches = initialLatches lc.ioLatchModel lc.free ∧
      ∀ line, (s.efOf line).toNat = lc.initEf.toList.getD (line.number - 1) 0) := by
  obtain ⟨log', hlog', hqueue⟩ := launch_queue h
  obtain rfl : log' = log := Checked.ok.inj (hlog'.symm.trans hlog)
  obtain ⟨hefs, -, -, -⟩ := launch_inputs h hlog
  obtain ⟨-, cycleNs, rp, ie, q, ef, startPc, log, -, -, -, -, -, -, hlog', rfl⟩ := launch_eq_ok h
  obtain rfl : log = log' := Checked.ok.inj (hlog'.symm.trans hlog)
  have hdue := launchState_dueAt lc cycleNs rp ie q ef startPc log
  refine ⟨?_, hqueue, fun hnone => ?_⟩
  · rw [State.applyEvents_intPending, hdue, launchState_intPending]
    simp
  · have hempty : log.filter (fun e => e.time == 0) = [] :=
      List.filter_eq_nil_iff.mpr fun e he => by simpa using hnone e he
    have hlatches := State.applyEvents_latches_of_dueAt_eq_nil (hdue.trans hempty)
    refine ⟨hqueue.trans (filter_time_ne_zero_sortEvents hnone), hlatches.trans (launchState_latches ..), fun line => ?_⟩
    rw [hefs, hempty]
    rfl

/-- Settles O34: the launch state's fields, and then the first ApplyEvents with the log's events at time 0. -/
theorem launchValues : Obligations.LaunchValues := by
  unfold Obligations.LaunchValues
  intro lc s h
  obtain ⟨hp, hx, hpc, hreg, hie, hq⟩ := launch_fixed_values h
  obtain ⟨himage, helsewhere⟩ := launch_mem_read h
  obtain ⟨-, cycleNs, rp, ie, q, ef, startPc, log, -, -, -, -, -, -, -, rfl⟩ := launch_eq_ok h
  refine ⟨hp, hx, hpc, hreg, hie, hq, ?_, ?_, ?_, ?_, ?_, ?_, ?_, ?_, ?_, ?_, ?_, ?_, himage, helsewhere,
    fun log hlog => ?ofLog⟩
  case ofLog =>
    obtain ⟨hrequest, hqueue, hnone⟩ := launch_log h hlog
    obtain ⟨hefs, hmodel, hin, hout⟩ := launch_inputs h hlog
    refine ⟨hrequest, hqueue, hefs, hmodel, hin, hout, fun hlater => ?_⟩
    obtain ⟨hsorted, hlatches, hlines⟩ := hnone hlater
    refine ⟨hsorted, hlatches, ?_, ?_, ?_, ?_⟩
    · simpa [EfLine.number] using hlines .ef1
    · simpa [EfLine.number] using hlines .ef2
    · simpa [EfLine.number] using hlines .ef3
    · simpa [EfLine.number] using hlines .ef4
  all_goals simp

end Sys2Proof.Machine
end

section
/-! PROOFS. The host's pokes (60_exceptions.md R245, R246). -/

namespace Sys2Proof.Machine

/-! ### Values in range and not -/

theorem fitBits_of_lt {w v : Nat} (h : v < 2 ^ w) : fitBits w v = some (BitVec.ofNat w v) := if_pos h

theorem fitBit_of_lt {v : Nat} (h : v < 2) : fitBit v = some (decide (v = 1)) := if_pos h

theorem pokeWith_fitBits (w v : Nat) (set : BitVec w → State) :
    pokeWith (fitBits w v) set = if v < 2 ^ w then .next (set (BitVec.ofNat w v)) else .refused .outOfRange := by
  split
  case isTrue h => rw [fitBits_of_lt h, pokeWith]
  case isFalse h => rw [fitBits_eq_none_iff.mpr (Nat.le_of_not_lt h), pokeWith]

theorem pokeWith_fitBit (v : Nat) (set : Bool → State) :
    pokeWith (fitBit v) set = if v < 2 then .next (set (decide (v = 1))) else .refused .outOfRange := by
  split
  case isTrue h => rw [fitBit_of_lt h, pokeWith]
  case isFalse h => rw [fitBit_eq_none_iff.mpr (by omega), pokeWith]

theorem pokeAt_eq_refused {α β : Type} {index : Option α} {value : Option β} (set : α → β → State)
    (h : index = none ∨ value = none) : pokeAt index value set = .refused .outOfRange := by
  rcases h with rfl | rfl
  · rfl
  · cases index <;> rfl

/-- Settles O37: each poke is its setter where its numbers fit, and refused where one does not. -/
theorem aPokeSetsWhatItNamesOrIsRefused : Obligations.APokeSetsWhatItNamesOrIsRefused := by
  unfold Obligations.APokeSetsWhatItNamesOrIsRefused
  intro s v i
  refine ⟨pokeWith_fitBits 8 v s.setD, pokeWith_fitBits 8 v s.setT, pokeWith_fitBits 4 v s.setP,
    pokeWith_fitBits 4 v s.setX, pokeWith_fitBit v _, pokeWith_fitBit v s.setIe, pokeWith_fitBit v s.setQ, rfl,
    ?register, ?memory, ?flag⟩
  case register =>
    split
    case isTrue h =>
      obtain ⟨hi, hv⟩ := h
      refine ⟨s.setReg (BitVec.ofNat 4 i) (BitVec.ofNat 16 v), ?_, s.reg_setReg_same _ _, s.onlyRegs_setReg _ _⟩
      simp only [hostStep, hostPoke, fitBits_of_lt (w := 4) hi, fitBits_of_lt (w := 16) hv, pokeAt]
    case isFalse h =>
      rw [not_and_or, not_lt, not_lt] at h
      exact pokeAt_eq_refused s.setReg (h.imp fitBits_eq_none_iff.mpr fitBits_eq_none_iff.mpr)
  case memory =>
    split
    case isTrue h =>
      obtain ⟨hi, hv⟩ := h
      refine ⟨s.memWrite (BitVec.ofNat 16 i) (BitVec.ofNat 8 v), ?_, s.memRead_memWrite_same _ _,
        s.onlyRegs_refl.memWrite _ _⟩
      simp only [hostStep, hostPoke, fitBits_of_lt (w := 16) hi, fitBits_of_lt (w := 8) hv, pokeAt]
    case isFalse h =>
      rw [not_and_or, not_lt, not_lt] at h
      exact pokeAt_eq_refused s.memWrite (h.imp fitBits_eq_none_iff.mpr fitBits_eq_none_iff.mpr)
  case flag =>
    split
    case isTrue h =>
      obtain ⟨hmin, hmax, hv⟩ := h
      obtain ⟨line, hline⟩ : ∃ line, EfLine.ofNumber i = some line :=
        Option.ne_none_iff_exists'.mp fun hnone => by have := efLine_ofNumber_eq_none_iff.mp hnone; omega
      refine ⟨s.setEf line (decide (v = 1)), line, efLine_ofNumber_eq_some_iff.mp hline, ?_, ?_, fun other hother => ?_,
        rfl⟩
      · simp only [hostStep, hostPoke, hline, fitBit_of_lt hv, pokeAt]
      · rw [s.efOf_setEf, if_pos rfl]
      · rw [s.efOf_setEf, if_neg hother]
    case isFalse h =>
      refine pokeAt_eq_refused s.setEf ?_
      rw [efLine_ofNumber_eq_none_iff, fitBit_eq_none_iff]
      omega

/-! ### The latches -/

section

variable {s : State} {wanted : IoLatchModel}

theorem pokeLatch_of_model (h : s.latches.model = wanted) (port v : Nat) (set : Port → Byte → State) :
    pokeLatch s wanted port v set = pokeAt (Port.ofNumber port) (fitBits 8 v) set := if_pos h

theorem pokeLatch_of_model_ne (h : s.latches.model ≠ wanted) (port v : Nat) (set : Port → Byte → State) :
    pokeLatch s wanted port v set = .refused .noSuchLatch := if_neg h

theorem pokeLatch_in_range (h : s.latches.model = wanted) (port : Port) {v : Nat} (hv : v < 256)
    (set : Port → Byte → State) : pokeLatch s wanted port.number v set = .next (set port (BitVec.ofNat 8 v)) := by
  rw [pokeLatch_of_model h, port_ofNumber_eq_some_iff.mpr rfl, fitBits_of_lt (w := 8) hv, pokeAt]

theorem pokeLatch_out_of_range (s : State) (wanted : IoLatchModel) {port v : Nat} (h : port < 1 ∨ 7 < port ∨ 256 ≤ v)
    (set : Port → Byte → State) : ∃ r, pokeLatch s wanted port v set = .refused r := by
  by_cases hmodel : s.latches.model = wanted
  · rw [pokeLatch_of_model hmodel]
    refine ⟨_, pokeAt_eq_refused set ?_⟩
    rwa [port_ofNumber_eq_none_iff, fitBits_eq_none_iff, or_assoc]
  · exact ⟨_, pokeLatch_of_model_ne hmodel port v set⟩

end

namespace State

variable {s : State} (port other : Port) (b : Byte)

theorem portIn_setPortOut_of_shared (h : s.latches.model = .shared) :
    (s.setPortOut port b).portIn other = if other = port then b else s.portIn other := by
  have h' : (s.setPortOut port b).latches.model = .shared := (s.latches.model_setOutput port b).trans h
  rw [← portOut_eq_portIn_of_shared _ h', ← portOut_eq_portIn_of_shared _ h, portOut_setPortOut]

theorem portIn_setPortOut_of_split (h : s.latches.model = .split) :
    (s.setPortOut port b).portIn other = s.portIn other :=
  s.latches.inputOf_setOutput_of_split port other b h

theorem portOut_setPortIn_of_split (h : s.latches.model = .split) :
    (s.setPortIn port b).portOut other = s.portOut other :=
  s.latches.outputOf_setInput_of_split port other b h

end State

/-- Settles O38: under its own latch model a latch poke is its setter; under the other there is no such latch. -/
theorem aLatchPokeSetsItsLatchOrIsRefused : Obligations.ALatchPokeSetsItsLatchOrIsRefused := by
  unfold Obligations.ALatchPokeSetsItsLatchOrIsRefused
  intro s port n v
  refine ⟨fun hv hshared => ?port, fun hv hsplit => ?outPort, fun hv hsplit => ?inPort, fun hrange => ?_,
    fun hsplit => ?_, fun hshared => ⟨?_, ?_⟩⟩
  case port =>
    refine ⟨_, pokeLatch_in_range hshared port hv _, ?_, ?_, fun o ho => ⟨?_, ?_⟩, rfl⟩
    · rw [State.portIn_setPortOut_of_shared port port _ hshared, if_pos rfl]
    · rw [State.portOut_setPortOut, if_pos rfl]
    · rw [State.portIn_setPortOut_of_shared port o _ hshared, if_neg ho]
    · rw [State.portOut_setPortOut, if_neg ho]
  case outPort =>
    refine ⟨_, pokeLatch_in_range hsplit port hv _, ?_, fun o => State.portIn_setPortOut_of_split port o _ hsplit,
      fun o ho => ?_, rfl⟩
    · rw [State.portOut_setPortOut, if_pos rfl]
    · rw [State.portOut_setPortOut, if_neg ho]
  case inPort =>
    refine ⟨_, pokeLatch_in_range hsplit port hv _, ?_, fun o => State.portOut_setPortIn_of_split port o _ hsplit,
      fun o ho => ?_, rfl⟩
    · rw [State.portIn_setPortIn, if_pos rfl]
    · rw [State.portIn_setPortIn, if_neg ho]
  · exact ⟨pokeLatch_out_of_range s _ hrange _, pokeLatch_out_of_range s _ hrange _, pokeLatch_out_of_range s _ hrange _⟩
  · exact pokeLatch_of_model_ne (by simp [hsplit]) n v _
  · exact pokeLatch_of_model_ne (by simp [hshared]) n v _
  · exact pokeLatch_of_model_ne (by simp [hshared]) n v _

end Sys2Proof.Machine
end

section
/-! PROOFS. Long branches (43_long_branch.md R142 to R145 and R151 to R153). -/

namespace Sys2Proof.Machine

namespace State

variable (s : State)

theorem longBranch_taken (target : Word) : s.longBranch true target = s.setPc target := rfl

theorem longBranch_notTaken (target : Word) : s.longBranch false target = s.setPc (s.pc + 2) := rfl

theorem onlyRegs_longBranch (cond : Bool) (target : Word) : s.OnlyRegs (s.longBranch cond target) [s.p] := by
  cases cond <;> exact s.onlyRegs_setReg s.p _

end State

/-- R140 for one instruction: an instruction encoded as its opcode and its target, high byte first, and executed as
`LongBranch(cond)`, branches exactly when its condition holds. -/
theorem longBranch_spec {s : State} {opcode hi lo : Byte} {i : Instr} {cond : Bool} {holds : Prop} (hwf : i.wf = true)
    (henc : encode i = [opcode, hiByte (bytePair hi lo), loByte (bytePair hi lo)]) (hcost : opcodeCost opcode = 3)
    (hexec : exec i s = .next (s.longBranch cond (bytePair hi lo))) (hcond : cond = true ↔ holds) :
    decode [opcode, hi, lo] = .ok (i, []) ∧ opcodeCost opcode = 3 ∧
    ∃ t, exec i s = .next t ∧ s.OnlyRegs t [s.p] ∧
      (holds → t.reg s.p = bytePair hi lo) ∧ (¬holds → t.reg s.p = s.reg s.p + 2) := by
  rw [hiByte_bytePair, loByte_bytePair] at henc
  refine ⟨henc ▸ decode_encode hwf, hcost, _, hexec, s.onlyRegs_longBranch cond _, fun htaken => ?_, fun hnot => ?_⟩
  · rw [hcond.mpr htaken, s.longBranch_taken]
    exact s.reg_setReg_same s.p _
  · rw [Bool.eq_false_iff.mpr (hnot ∘ hcond.mp), s.longBranch_notTaken]
    exact s.reg_setReg_same s.p _

/-- Settles O45: each of the seven is `LongBranch` of its own condition. -/
theorem longBranches : Obligations.LongBranches := by
  unfold Obligations.LongBranches
  intro s hi lo target htarget
  obtain rfl : target = bytePair hi lo := BitVec.eq_of_toNat_eq (by rw [htarget, bytePair_toNat, Nat.mul_comm])
  simp only [List.forall_mem_cons]
  refine ⟨?lbr, ?lbq, ?lbz, ?lbdf, ?lbnq, ?lbnz, ?lbnf, List.forall_mem_nil _⟩
  case lbr => exact longBranch_spec rfl rfl rfl rfl (iff_of_true rfl trivial)
  case lbz => exact longBranch_spec rfl rfl rfl rfl s.dIsZero_eq_true_iff
  case lbnz => exact longBranch_spec rfl rfl rfl rfl ((Bool.not_eq_true' _).to_iff.trans s.dIsZero_eq_false_iff)
  case lbq | lbdf => exact longBranch_spec rfl rfl rfl rfl Iff.rfl
  case lbnq | lbnf => exact longBranch_spec rfl rfl rfl rfl (Bool.not_eq_true' _).to_iff

end Sys2Proof.Machine
end

section
/-! PROOFS. Subtraction (44_arithmetic_logic.md R172 to R179), and the rotations through DF (R181 and R183). -/

namespace Sys2Proof.Machine

/-! ### Subtraction -/

/-- Adding the complement and the carry subtracts the borrow, which is what the carry lacks of 1. -/
theorem sub8_fst_toNat (a b : Byte) {c : Bool} {borrow : Nat} (hborrow : c.toNat + borrow = 1) :
    ((sub8 a b c).1.toNat : Int) = ((a.toNat : Int) - b.toNat - borrow) % 256 := by
  have hb := b.isLt
  rw [sub8, add8_fst_toNat, BitVec.toNat_not]
  omega

theorem sub8_snd_eq_true_iff (a b : Byte) {c : Bool} {borrow : Nat} (hborrow : c.toNat + borrow = 1) :
    (sub8 a b c).2 = true ↔ b.toNat + borrow ≤ a.toNat := by
  have hb := b.isLt
  rw [sub8, add8_snd_eq_true_iff, BitVec.toNat_not]
  omega

/-- An instruction that takes its operand and subtracts, with a borrow in. -/
theorem subtraction_spec {s u : State} {bytes : List Byte} {i : Instr} {changed : List Nib} {minuend subtrahend : Byte}
    {c : Bool} {borrow : Nat} (hwf : i.wf = true) (henc : encode i = bytes) (hpast : s.PastOperand u changed)
    (hexec : exec i s = .next (u.setDDf (sub8 minuend subtrahend c))) (hborrow : c.toNat + borrow = 1) :
    decode bytes = .ok (i, []) ∧
    ∃ t, exec i s = .next t ∧
      (t.d.toNat : Int) = ((minuend.toNat : Int) - subtrahend.toNat - borrow) % 256 ∧
      (t.df = true ↔ subtrahend.toNat + borrow ≤ minuend.toNat) ∧
      s.OnlyDDfAndRegs t changed ∧ (s.p ∈ changed → t.reg s.p = s.reg s.p + 1) := by
  obtain ⟨hregs, hpc⟩ := hpast
  exact ⟨henc ▸ decode_encode hwf, _, hexec, sub8_fst_toNat _ _ hborrow, sub8_snd_eq_true_iff _ _ hborrow,
    hregs.setDDf _, hpc⟩

/-- Settles O49: each of the eight is a subtraction with its own order, operand and borrow. -/
theorem subtractionBorrowsThroughDF : Obligations.SubtractionBorrowsThroughDF := by
  unfold Obligations.SubtractionBorrowsThroughDF
  intro s b
  have hdf : s.df.toNat + (1 - s.df.toNat) = 1 := Nat.add_sub_of_le s.df.toNat_le
  simp only [List.forall_mem_cons]
  refine ⟨?sd, ?sdi, ?sdb, ?sdbi, ?sm, ?smi, ?smb, ?smbi, List.forall_mem_nil _⟩
  case sd | sm => exact subtraction_spec (c := true) rfl rfl s.pastOperand_memory rfl rfl
  case sdi | smi => exact subtraction_spec (c := true) rfl rfl s.pastOperand_immediate rfl rfl
  case sdb | smb => exact subtraction_spec rfl rfl s.pastOperand_memory rfl hdf
  case sdbi | smbi => exact subtraction_spec rfl rfl s.pastOperand_immediate rfl hdf

/-! ### Rotations through DF -/

/-- SHRC's effect on the pair of D and DF. -/
def rotateRight (x : Byte × Bool) : Byte × Bool := shiftRight x.1 x.2

/-- SHLC's effect on the pair of D and DF. -/
def rotateLeft (x : Byte × Bool) : Byte × Bool := shiftLeft x.1 x.2

/-- D and DF as one number of nine bits, DF the highest. -/
def nineBits (x : Byte × Bool) : Nat := x.1.toNat + 256 * x.2.toNat

theorem nineBits_lt (x : Byte × Bool) : nineBits x < 512 := by
  have := x.1.isLt
  have := x.2.toNat_lt
  unfold nineBits
  omega

theorem nineBits_injective : Function.Injective nineBits := by
  rintro ⟨d, c⟩ ⟨d', c'⟩ h
  have := d.isLt
  have := d'.isLt
  have := c.toNat_lt
  have := c'.toNat_lt
  simp only [nineBits] at h
  have hd : d.toNat = d'.toNat := by omega
  have hc : c.toNat = c'.toNat := by omega
  exact Prod.ext (BitVec.eq_of_toNat_eq hd) (Bool.injective_iff.mpr (by decide) hc)

/-- Rotating right moves every bit one place down and bit 0 to the top. -/
theorem nineBits_rotateRight (x : Byte × Bool) : nineBits (rotateRight x) = nineBits x / 2 + 256 * (nineBits x % 2) := by
  have hout : (shiftRight x.1 x.2).2.toNat = x.1.toNat % 2 := by
    have h := shiftRight_snd_eq_true_iff x.1 x.2
    cases hc : (shiftRight x.1 x.2).2 <;> simp [hc] at h ⊢ <;> omega
  simp only [nineBits, rotateRight, shiftRight_fst_toNat, hout]
  omega

/-- Rotating left moves every bit one place up and bit 8 to the bottom. -/
theorem nineBits_rotateLeft (x : Byte × Bool) :
    nineBits (rotateLeft x) = nineBits x * 2 % 512 + nineBits x / 256 := by
  have := x.1.isLt
  have := x.2.toNat_lt
  have hout : (shiftLeft x.1 x.2).2.toNat = x.1.toNat / 128 := by
    have h := shiftLeft_snd_eq_true_iff x.1 x.2
    cases hc : (shiftLeft x.1 x.2).2 <;> simp [hc] at h ⊢ <;> omega
  simp only [nineBits, rotateLeft, shiftLeft_fst_toNat, hout]
  omega

theorem rotateLeft_rotateRight : Function.LeftInverse rotateLeft rotateRight := by
  intro x
  have := nineBits_lt x
  apply nineBits_injective
  rw [nineBits_rotateLeft, nineBits_rotateRight]
  rcases Nat.mod_two_eq_zero_or_one (nineBits x) with hlow | hlow
  all_goals
    rw [hlow]
    omega

theorem rotateRight_rotateLeft : Function.LeftInverse rotateRight rotateLeft := by
  intro x
  have := nineBits_lt x
  apply nineBits_injective
  rw [nineBits_rotateRight, nineBits_rotateLeft]
  obtain hhigh | hhigh : nineBits x / 256 = 0 ∨ nineBits x / 256 = 1 := by omega
  all_goals
    rw [hhigh]
    omega

/-- After `k` of nine rotations the upper bits have come down `k` places and the lower `k` bits stand above them. -/
theorem nineBits_iterate_rotateRight (x : Byte × Bool) {k : Nat} (hk : k ≤ 9) :
    nineBits (rotateRight^[k] x) = nineBits x / 2 ^ k + 2 ^ (9 - k) * (nineBits x % 2 ^ k) := by
  induction k with
  | zero => simp [Nat.mod_one]
  | succ k ih =>
    rw [Function.iterate_succ_apply', nineBits_rotateRight, ih (by omega)]
    have hk : k < 9 := hk
    interval_cases k <;> simp only [Nat.reduceAdd, Nat.reduceSub, Nat.reducePow] <;> omega

theorem iterate_nine_rotateRight (x : Byte × Bool) : rotateRight^[9] x = x := by
  apply nineBits_injective
  rw [nineBits_iterate_rotateRight x le_rfl]
  have := nineBits_lt x
  omega

/-- A left rotation undoes a right one, so nine of them undo nine right ones, which did nothing. -/
theorem iterate_nine_rotateLeft (x : Byte × Bool) : rotateLeft^[9] x = x := by
  have h := rotateLeft_rotateRight.iterate 9 x
  rwa [iterate_nine_rotateRight] at h

namespace State

theorem setDDf_self (s : State) : s.setDDf (s.d, s.df) = s := rfl

theorem exec_shrc (s : State) (x : Byte × Bool) : exec .shrc (s.setDDf x) = .next (s.setDDf (rotateRight x)) := rfl

theorem exec_shlc (s : State) (x : Byte × Bool) : exec .shlc (s.setDDf x) = .next (s.setDDf (rotateLeft x)) := rfl

end State

/-- An instruction that transforms D and DF, executed `k` times, iterates the transformation. -/
theorem execTimes_setDDf {i : Instr} {f : Byte × Bool → Byte × Bool} {s : State}
    (h : ∀ x, exec i (s.setDDf x) = .next (s.setDDf (f x))) (k : Nat) (x : Byte × Bool) :
    execTimes k i (s.setDDf x) = .next (s.setDDf (f^[k] x)) := by
  induction k generalizing x with
  | zero => rfl
  | succ k ih => rw [execTimes, h, Function.iterate_succ_apply, ← ih]

/-- Settles O51: SHRC and SHLC rotate the nine bits of D and DF, and touch nothing else. -/
theorem nineRotationsAreTheIdentity : Obligations.NineRotationsAreTheIdentity := by
  unfold Obligations.NineRotationsAreTheIdentity
  intro s
  refine ⟨?_, ?_, fun t ht => ?_, fun t ht => ?_⟩
  · have h := execTimes_setDDf s.exec_shrc 9 (s.d, s.df)
    rwa [iterate_nine_rotateRight, s.setDDf_self] at h
  · have h := execTimes_setDDf s.exec_shlc 9 (s.d, s.df)
    rwa [iterate_nine_rotateLeft, s.setDDf_self] at h
  · obtain rfl := Host.Outcome.next.inj ht
    refine (s.exec_shlc (rotateRight (s.d, s.df))).trans ?_
    rw [rotateLeft_rotateRight, s.setDDf_self]
  · obtain rfl := Host.Outcome.next.inj ht
    refine (s.exec_shrc (rotateLeft (s.d, s.df))).trans ?_
    rw [rotateRight_rotateLeft, s.setDDf_self]

end Sys2Proof.Machine
end

section
/-! PROOFS. SAV, MARK, the returns, IDL and the reserved opcode (45_control.md R190 and R195 to R199), OUT and INP
(46_io.md R211, R212). -/

namespace Sys2Proof.Machine

/-! ### The control group -/

/-- Settles O53: SAV is one store; MARK is one store of the pair, two assignments and one step of `R[2]`, which comes after
the store. -/
theorem savAndMarkStoreThePair : Obligations.SavAndMarkStoreThePair := by
  unfold Obligations.SavAndMarkStoreThePair
  intro s
  refine ⟨⟨decode_sav, ?sav⟩, ⟨decode_mark, ?mark⟩⟩
  case sav => exact ⟨_, rfl, s.memRead_memWrite_same _ s.t, s.onlyRegs_refl.memWrite _ s.t⟩
  case mark =>
    obtain ⟨-, hregs, -⟩ := s.onlyRegs_setReg 2 (s.reg 2 - 1)
    obtain ⟨-, -, hmem⟩ := s.onlyRegs_refl.memWrite (s.reg 2) s.savedXP
    exact ⟨_, rfl, s.savedXP_toNat, s.memRead_memWrite_same _ s.savedXP, rfl, s.reg_decReg_same 2, rfl, hregs, hmem⟩

/-- Settles O54: both are the return from interrupt, which reads the byte before it moves the pointer. -/
theorem returnsLoadThePairFromMemory : Obligations.ReturnsLoadThePairFromMemory := by
  unfold Obligations.ReturnsLoadThePairFromMemory
  intro s
  have hreturn : ∀ ie, 16 * (s.returnFromInterrupt ie).x.toNat + (s.returnFromInterrupt ie).p.toNat =
      (s.memRead (s.reg s.x)).toNat := fun ie => by
    rw [State.returnFromInterrupt_x, State.returnFromInterrupt_p, hiNib_toNat, loNib_toNat]
    omega
  obtain ⟨-, hregs, hmem⟩ := s.onlyRegs_setReg s.x (s.reg s.x + 1)
  simp only [List.forall_mem_cons]
  refine ⟨?ret, ?dis, List.forall_mem_nil _⟩
  case ret =>
    exact ⟨decode_ret, _, rfl, hreturn true, rfl, s.reg_incReg_same s.x, s.returnFromInterrupt_eq true, hregs, hmem⟩
  case dis =>
    exact ⟨decode_dis, _, rfl, hreturn false, rfl, s.reg_incReg_same s.x, s.returnFromInterrupt_eq false, hregs, hmem⟩

theorem exec_reserved68_of_nop {s : State} (h : s.cfg.op68Mode = .nop) : exec .reserved68 s = .next s := by
  simp only [exec, execReserved68, h]

theorem exec_reserved68_of_idle {s : State} (h : s.cfg.op68Mode = .idle) :
    exec .reserved68 s = .next (s.setIdle true) := by
  simp only [exec, execReserved68, h]

/-- The reserved opcode, inverted. -/
theorem exec_reserved68_cases {s t : State} (h : exec .reserved68 s = .next t) :
    t = s ∨ (s.cfg.op68Mode = .idle ∧ t = s.setIdle true) := by
  cases hmode : s.cfg.op68Mode with
  | nop => exact .inl (Host.Outcome.next.inj ((exec_reserved68_of_nop hmode).symm.trans h)).symm
  | idle => exact .inr ⟨rfl, (Host.Outcome.next.inj ((exec_reserved68_of_idle hmode).symm.trans h)).symm⟩

/-- Settles O55: IDL is one assignment, and opcode 0x68 is nothing or that one by its mode. -/
theorem idlAndTheReservedOpcode : Obligations.IdlAndTheReservedOpcode := by
  unfold Obligations.IdlAndTheReservedOpcode
  exact fun s => ⟨⟨decode_idl, rfl⟩, decode_reserved68, rfl, exec_reserved68_of_nop, exec_reserved68_of_idle⟩

/-! ### Input and output -/

/-- Settles O56: one latch is set to the byte at `R[X]`, and `R[X]` moves on; the latch models differ in what INP then
reads. -/
theorem outSendsMemoryToItsLatch : Obligations.OutSendsMemoryToItsLatch := by
  unfold Obligations.OutSendsMemoryToItsLatch
  intro s port
  have hout := fun o => s.portOut_setPortOut port o s.memViaX
  have hmodel := s.latches.model_setOutput port s.memViaX
  have hin : ∀ o, o ≠ port → (s.setPortOut port s.memViaX).portIn o = s.portIn o := fun o ho => by
    cases hm : s.latches.model with
    | shared => rw [State.portIn_setPortOut_of_shared port o _ hm, if_neg ho]
    | split => exact State.portIn_setPortOut_of_split port o _ hm
  obtain ⟨-, hregs, hmem⟩ := s.onlyRegs_setReg s.x (s.reg s.x + 1)
  refine ⟨?_, ?_, _, rfl, (hout port).trans (if_pos rfl), fun o ho => ⟨(hout o).trans (if_neg ho), hin o ho⟩,
    fun hshared => ?_, fun hsplit => State.portIn_setPortOut_of_split port port _ hsplit, hmodel,
    s.reg_incReg_same s.x, rfl, hregs, hmem⟩
  · exact decode_encode (i := .out port) rfl
  · cases port <;> rfl
  · exact (State.portIn_setPortOut_of_shared port port _ hshared).trans (if_pos rfl)

/-- Settles O57: one store of the latch INP reads, and the same byte into D. -/
theorem inpStoresItsLatchInMemoryAndD : Obligations.InpStoresItsLatchInMemoryAndD := by
  unfold Obligations.InpStoresItsLatchInMemoryAndD
  intro s port
  obtain ⟨-, -, hmem⟩ := s.onlyRegs_refl.memWrite (s.reg s.x) (s.portIn port)
  refine ⟨?_, ?_, fun v hv => ?_, fun o i hoi => ?_, _, rfl, rfl, s.memRead_memWrite_same _ _, rfl, hmem⟩
  · exact decode_encode (i := .inp port) rfl
  · cases port <;> rfl
  · exact (s.portOut_eq_portIn_of_shared (by rw [hv]; rfl) port).symm
  · rw [State.portIn, hoi]
    rfl

end Sys2Proof.Machine
end

section
/-! PROOFS. Which instructions write DF and the control state (10_state.md R22 to R30). -/

namespace Sys2Proof.Machine

/-! ### DF -/

/-- The adds, the subtracts and the shifts are the only instructions that can change DF. The branches and skips move
`R[P]` under a condition, and opcode 0x68 has two modes; every other instruction builds its next state with `s.df`. -/
theorem exec_df_ne {i : Instr} {s t : State} (h : exec i s = .next t) (hdf : t.df ≠ s.df) :
    i ∈ [Instr.add, .adc, .sd, .sdb, .sm, .smb, .shr, .shrc, .shl, .shlc] ∨
    ∃ b, i ∈ [Instr.adi b, .adci b, .sdi b, .sdbi b, .smi b, .smbi b] := by
  cases i
  case add | adc | sd | sdb | sm | smb | shr | shrc | shl | shlc => exact .inl (by decide)
  case adi b | adci b | sdi b | sdbi b | smi b | smbi b => exact .inr ⟨b, by simp⟩
  all_goals refine absurd ?_ hdf
  case br | bq | bz | bdf | b1 | b2 | b3 | b4 | skp | bnq | bnz | bnf | bn1 | bn2 | bn3 | bn4 =>
    obtain rfl := Host.Outcome.next.inj h
    exact s.shortBranch_df _ _
  case lbr | lbq | lbz | lbdf | lbnq | lbnz | lbnf =>
    obtain rfl := Host.Outcome.next.inj h
    exact s.longBranch_df _ _
  case lsnq | lsnz | lsnf | lskp | lsie | lsq | lsz | lsdf =>
    obtain rfl := Host.Outcome.next.inj h
    exact s.longSkip_df _
  case reserved68 =>
    obtain rfl | ⟨-, rfl⟩ := exec_reserved68_cases h <;> rfl
  all_goals
    obtain rfl := Host.Outcome.next.inj h
    rfl

/-- Settles O58: `exec_df_ne`. -/
theorem onlyArithmeticAndShiftsWriteDF : Obligations.OnlyArithmeticAndShiftsWriteDF := by
  unfold Obligations.OnlyArithmeticAndShiftsWriteDF
  exact fun _ _ _ => exec_df_ne

/-! ### The control state -/

namespace State

/-- P, X, T, IE, Q, IDLE and the latches are as before. -/
structure ControlKept (s t : State) : Prop where
  keepsP : t.p = s.p
  keepsX : t.x = s.x
  keepsT : t.t = s.t
  keepsIe : t.ie = s.ie
  keepsQ : t.q = s.q
  keepsIdle : t.idle = s.idle
  keepsLatches : t.latches = s.latches

variable {s t : State}

theorem OnlyRegs.controlKept {changed : List Nib} (h : s.OnlyRegs t changed) : s.ControlKept t := by
  obtain ⟨hrest, -, -⟩ := h
  obtain ⟨r, rfl⟩ : ∃ r, t = { s with r := r } := ⟨_, hrest⟩
  exact ⟨rfl, rfl, rfl, rfl, rfl, rfl, rfl⟩

/-- Where the control state is kept, nothing is asked of the instruction. -/
theorem ControlKept.elim (h : s.ControlKept t) {ifP ifX ifT ifIe ifQ ifIdle ifLatches rest : Prop} (hrest : rest) :
    (t.p ≠ s.p → ifP) ∧ (t.x ≠ s.x → ifX) ∧ (t.t ≠ s.t → ifT) ∧ (t.ie ≠ s.ie → ifIe) ∧ (t.q ≠ s.q → ifQ) ∧
      (t.idle ≠ s.idle → ifIdle) ∧ (t.latches ≠ s.latches → ifLatches) ∧ rest :=
  ⟨absurd h.keepsP, absurd h.keepsX, absurd h.keepsT, absurd h.keepsIe, absurd h.keepsQ, absurd h.keepsIdle,
    absurd h.keepsLatches, hrest⟩

end State

/-- Settles O59: the writers of the control state write only what is theirs; a branch or skip changes `R[P]` alone, and
every other instruction builds its next state with the old control state. -/
theorem whoWritesTheControlState : Obligations.WhoWritesTheControlState := by
  unfold Obligations.WhoWritesTheControlState
  intro i s t h
  obtain ⟨hcfg, hef, -⟩ := exec_keeps_synchroniser h
  cases i
  case sep | sex | seq | req | idl | out =>
    obtain rfl := Host.Outcome.next.inj h
    simp
  case mark =>
    obtain rfl := Host.Outcome.next.inj h
    simp [State.storeViaN]
  case ret | dis =>
    obtain rfl := Host.Outcome.next.inj h
    simp [State.returnFromInterrupt_eq]
  case reserved68 =>
    obtain rfl | ⟨hmode, rfl⟩ := exec_reserved68_cases h
    · exact t.onlyRegs_refl.controlKept.elim ⟨hef, hcfg⟩
    · simp [hmode]
  case br | bq | bz | bdf | b1 | b2 | b3 | b4 | skp | bnq | bnz | bnf | bn1 | bn2 | bn3 | bn4 =>
    obtain rfl := Host.Outcome.next.inj h
    exact (s.onlyRegs_shortBranch _ _).controlKept.elim ⟨hef, hcfg⟩
  case lbr | lbq | lbz | lbdf | lbnq | lbnz | lbnf =>
    obtain rfl := Host.Outcome.next.inj h
    exact (s.onlyRegs_longBranch _ _).controlKept.elim ⟨hef, hcfg⟩
  case lsnq | lsnz | lsnf | lskp | lsie | lsq | lsz | lsdf =>
    obtain rfl := Host.Outcome.next.inj h
    exact (s.onlyRegs_longSkip _).controlKept.elim ⟨hef, hcfg⟩
  all_goals
    obtain rfl := Host.Outcome.next.inj h
    exact State.ControlKept.elim ⟨rfl, rfl, rfl, rfl, rfl, rfl, rfl⟩ ⟨hef, hcfg⟩

end Sys2Proof.Machine
end
